-- ==== Sys2Proof/Word.lean ====
section
/-!
DEFINITION. The machine's two word sizes: 8-bit bytes (V registers, memory, timers) and 16-bit words
(I, pc, stack slots, instruction words). spec/00_scope.md R10, R12: every value is unsigned.
-/
namespace Sys2Proof

/-- An 8-bit value: a V register, a byte of memory, a timer (R100, R110, R140). -/
abbrev Byte := BitVec 8

/-- A 16-bit value: I, pc, a stack slot, an instruction word (R104, R106, R120, R300). -/
abbrev Word := BitVec 16

/-- The number of a general register, 0 to 15 (R100, R310). -/
abbrev RegIdx := Fin 16

/-- The number of a logical key, 0x0 to 0xF (R10, R150). -/
abbrev KeyIdx := Fin 16

end Sys2Proof
end

