-- ==== Sys2Proof/Config.lean ====
section
/-!
DEFINITION. What an implementation of the block fixes (the named parameters of spec/00_scope.md R11, with their
defaults) and the one value the spec leaves free (the byte of `rand_in`, spec/42_alu.md R560).
The parameters are plain data, so that a state can carry them: every statement about every state then holds
for every setting (notes/assumptions/1.md).
-/
namespace Sys2Proof

/-- `P_ADD_I_VF` (R11, R610, D4): what `ADD I, Vx` does to VF. -/
inductive AddIVf where
  /-- VF is not written. -/
  | unchanged
  /-- VF is 1 iff the sum leaves 12 bits, else 0. -/
  | overflow
  deriving DecidableEq, Repr

/-- `P_STACK_DEPTH` (R11, R120, D8): 15 or 16 return addresses. -/
inductive StackDepth where
  | fifteen
  | sixteen
  deriving DecidableEq, Repr

/-- The depth as a number of entries. -/
def StackDepth.toNat : StackDepth → Nat
  | .fifteen => 15
  | .sixteen => 16

/-- `P_FONT_OOR` (R11, R620, D11): what `LD F, Vx` does when `V[x] > 15`. -/
inductive FontOor where
  /-- Raise OperandOutOfRange. -/
  | fault
  /-- I keeps its value. -/
  | unchanged
  deriving DecidableEq, Repr

/-- `P_KEY_OOR` (R11, R460, R461, D12): what `SKP` and `SKNP` do when `V[x] > 15`. -/
inductive KeyOor where
  /-- Raise OperandOutOfRange. -/
  | fault
  /-- The key counts as not pressed. -/
  | notPressed
  deriving DecidableEq, Repr

/-- `P_FONT_TABLE` (R11, R111): 16 glyphs of 5 bytes, 80 bytes in all; byte `r` of glyph `d` is row `r`. -/
abbrev FontTable := Vector (Vector Byte 5) 16

/-- The parameters of spec/00_scope.md R11. Nothing the machine or the host does changes them. -/
structure Params where
  /-- `P_ADD_I_VF`. -/
  addIVf : AddIVf
  /-- `P_DECODE_STRICT`. -/
  decodeStrict : Bool
  /-- `P_STACK_DEPTH`. -/
  stackDepth : StackDepth
  /-- `P_FONT_OOR`. -/
  fontOor : FontOor
  /-- `P_KEY_OOR`. -/
  keyOor : KeyOor
  /-- `P_FONT_TABLE`. -/
  fontTable : FontTable
  deriving DecidableEq, Repr

/-- Glyphs 0 to 7 of the standard font, the default of `P_FONT_TABLE`
(spec/10_state.md R112; PRESUMED by the spec itself, notes/assumptions/2.md). -/
def Config.fontLow : Vector (Vector Byte 5) 8 :=
  #v[#v[0xF0, 0x90, 0x90, 0x90, 0xF0],
     #v[0x20, 0x60, 0x20, 0x20, 0x70],
     #v[0xF0, 0x10, 0xF0, 0x80, 0xF0],
     #v[0xF0, 0x10, 0xF0, 0x10, 0xF0],
     #v[0x90, 0x90, 0xF0, 0x10, 0x10],
     #v[0xF0, 0x80, 0xF0, 0x10, 0xF0],
     #v[0xF0, 0x80, 0xF0, 0x90, 0xF0],
     #v[0xF0, 0x10, 0x20, 0x40, 0x40]]

/-- Glyphs 8 to F of the standard font (R112). -/
def Config.fontHigh : Vector (Vector Byte 5) 8 :=
  #v[#v[0xF0, 0x90, 0xF0, 0x90, 0xF0],
     #v[0xF0, 0x90, 0xF0, 0x10, 0xF0],
     #v[0xF0, 0x90, 0xF0, 0x90, 0x90],
     #v[0xE0, 0x90, 0xE0, 0x90, 0xE0],
     #v[0xF0, 0x80, 0x80, 0x80, 0xF0],
     #v[0xE0, 0x90, 0x90, 0x90, 0xE0],
     #v[0xF0, 0x80, 0xF0, 0x80, 0xF0],
     #v[0xF0, 0x80, 0xF0, 0x80, 0x80]]

/-- The default of `P_FONT_TABLE`, the table of R112. -/
def Config.standardFont : FontTable := Config.fontLow ++ Config.fontHigh

/-- The defaults of spec/00_scope.md R11 (the setting of State.reset; notes/assumptions/1.md). -/
def Config.defaults : Params where
  addIVf := .unchanged
  decodeStrict := false
  stackDepth := .sixteen
  fontOor := .fault
  keyOor := .fault
  fontTable := Config.standardFont

/-- THE FREE VALUE of this model: the byte that `rand_in` gives the n-th execution of `RND`
(spec/42_alu.md R560, D14: any value, no law). It has no body, so no proof can know a value of it
(notes/assumptions/4.md). -/
opaque Config.randomByte : Nat → Byte

end Sys2Proof
end

