-- ==== Sys2Proof/Syntax.lean ====
section
/-!
DEFINITION. The instruction set: one constructor for each of the 34 rows of the opcode map (spec/30_encoding.md R320),
with the operands the row lists. Fields the decoder ignores (R333) are no operands.
-/
namespace Sys2Proof

/-- An instruction of R320. `x` and `y` name V registers (R310); `kk` is the immediate byte; `nnn` is the 12-bit address,
already zero-extended to 16 bits (R303); `n` is the number of sprite rows. That `nnn` fits 12 bits and `n` 4 bits
(R340) is the check of WellFormed.lean. -/
inductive Instr where
  /-- `CLS` (R710). -/
  | cls
  /-- `RET` (R410). -/
  | ret
  /-- `JP addr` (R412). -/
  | jpAddr (nnn : Word)
  /-- `CALL addr` (R411). -/
  | callAddr (nnn : Word)
  /-- `SE Vx, byte` (R450). -/
  | seVxByte (x : RegIdx) (kk : Byte)
  /-- `SNE Vx, byte` (R451). -/
  | sneVxByte (x : RegIdx) (kk : Byte)
  /-- `SE Vx, Vy` (R452). -/
  | seVxVy (x y : RegIdx)
  /-- `LD Vx, byte` (R500). -/
  | ldVxByte (x : RegIdx) (kk : Byte)
  /-- `ADD Vx, byte` (R501). -/
  | addVxByte (x : RegIdx) (kk : Byte)
  /-- `LD Vx, Vy` (R510). -/
  | ldVxVy (x y : RegIdx)
  /-- `OR Vx, Vy` (R511). -/
  | orVxVy (x y : RegIdx)
  /-- `AND Vx, Vy` (R512). -/
  | andVxVy (x y : RegIdx)
  /-- `XOR Vx, Vy` (R513). -/
  | xorVxVy (x y : RegIdx)
  /-- `ADD Vx, Vy` (R520). -/
  | addVxVy (x y : RegIdx)
  /-- `SUB Vx, Vy` (R521). -/
  | subVxVy (x y : RegIdx)
  /-- `SHR Vx` (R522). -/
  | shrVx (x : RegIdx)
  /-- `SUBN Vx, Vy` (R523). -/
  | subnVxVy (x y : RegIdx)
  /-- `SHL Vx` (R524). -/
  | shlVx (x : RegIdx)
  /-- `SNE Vx, Vy` (R453). -/
  | sneVxVy (x y : RegIdx)
  /-- `LD I, addr` (R600). -/
  | ldIAddr (nnn : Word)
  /-- `JP V0, addr` (R413). -/
  | jpV0Addr (nnn : Word)
  /-- `RND Vx, byte` (R560). -/
  | rndVxByte (x : RegIdx) (kk : Byte)
  /-- `DRW Vx, Vy, n` (R720). -/
  | drwVxVyN (x y : RegIdx) (n : Nat)
  /-- `SKP Vx` (R460). -/
  | skpVx (x : RegIdx)
  /-- `SKNP Vx` (R461). -/
  | sknpVx (x : RegIdx)
  /-- `LD Vx, DT` (R800). -/
  | ldVxDt (x : RegIdx)
  /-- `LD Vx, K` (R810). -/
  | ldVxK (x : RegIdx)
  /-- `LD DT, Vx` (R801). -/
  | ldDtVx (x : RegIdx)
  /-- `LD ST, Vx` (R802). -/
  | ldStVx (x : RegIdx)
  /-- `ADD I, Vx` (R610). -/
  | addIVx (x : RegIdx)
  /-- `LD F, Vx` (R620). -/
  | ldFVx (x : RegIdx)
  /-- `LD B, Vx` (R630). -/
  | ldBVx (x : RegIdx)
  /-- `LD [I], Vx` (R640). -/
  | ldMemVx (x : RegIdx)
  /-- `LD Vx, [I]` (R641). -/
  | ldVxMem (x : RegIdx)
  deriving DecidableEq, Repr

/-- The instruction's mnemonic, spelled as spec/opcode_table.json spells it. -/
def Instr.mnemonic : Instr → String
  | .cls => "CLS"
  | .ret => "RET"
  | .jpAddr _ => "JP_addr"
  | .callAddr _ => "CALL_addr"
  | .seVxByte _ _ => "SE_Vx__byte"
  | .sneVxByte _ _ => "SNE_Vx__byte"
  | .seVxVy _ _ => "SE_Vx__Vy"
  | .ldVxByte _ _ => "LD_Vx__byte"
  | .addVxByte _ _ => "ADD_Vx__byte"
  | .ldVxVy _ _ => "LD_Vx__Vy"
  | .orVxVy _ _ => "OR_Vx__Vy"
  | .andVxVy _ _ => "AND_Vx__Vy"
  | .xorVxVy _ _ => "XOR_Vx__Vy"
  | .addVxVy _ _ => "ADD_Vx__Vy"
  | .subVxVy _ _ => "SUB_Vx__Vy"
  | .shrVx _ => "SHR_Vx"
  | .subnVxVy _ _ => "SUBN_Vx__Vy"
  | .shlVx _ => "SHL_Vx"
  | .sneVxVy _ _ => "SNE_Vx__Vy"
  | .ldIAddr _ => "LD_I__addr"
  | .jpV0Addr _ => "JP_V0__addr"
  | .rndVxByte _ _ => "RND_Vx__byte"
  | .drwVxVyN _ _ _ => "DRW_Vx__Vy__n"
  | .skpVx _ => "SKP_Vx"
  | .sknpVx _ => "SKNP_Vx"
  | .ldVxDt _ => "LD_Vx__DT"
  | .ldVxK _ => "LD_Vx__K"
  | .ldDtVx _ => "LD_DT__Vx"
  | .ldStVx _ => "LD_ST__Vx"
  | .addIVx _ => "ADD_I__Vx"
  | .ldFVx _ => "LD_F__Vx"
  | .ldBVx _ => "LD_B__Vx"
  | .ldMemVx _ => "LD__I___Vx"
  | .ldVxMem _ => "LD_Vx___I"

end Sys2Proof
end

