-- ==== Sys2Proof/WellFormed.lean ====
section
/-!
DEFINITION. Which instruction terms the hardware has: `addr` must fit in 12 bits and `nibble` in 4
(spec/30_encoding.md R340). Register fields and bytes fit by their types (R310, R303).
-/
namespace Sys2Proof

/-- An address operand fits in 12 bits (R340, R303). -/
def addrFits (nnn : Word) : Bool := nnn.toNat < 0x1000

/-- A sprite height fits in 4 bits (R340, R303). -/
def nibbleFits (n : Nat) : Bool := n < 16

/-- The terms the encoding has a word for (R340). -/
def Instr.wellFormed : Instr → Bool
  | .jpAddr nnn => addrFits nnn
  | .callAddr nnn => addrFits nnn
  | .ldIAddr nnn => addrFits nnn
  | .jpV0Addr nnn => addrFits nnn
  | .drwVxVyN _ _ n => nibbleFits n
  | .cls => true
  | .ret => true
  | .seVxByte _ _ => true
  | .sneVxByte _ _ => true
  | .seVxVy _ _ => true
  | .ldVxByte _ _ => true
  | .addVxByte _ _ => true
  | .ldVxVy _ _ => true
  | .orVxVy _ _ => true
  | .andVxVy _ _ => true
  | .xorVxVy _ _ => true
  | .addVxVy _ _ => true
  | .subVxVy _ _ => true
  | .shrVx _ => true
  | .subnVxVy _ _ => true
  | .shlVx _ => true
  | .sneVxVy _ _ => true
  | .rndVxByte _ _ => true
  | .skpVx _ => true
  | .sknpVx _ => true
  | .ldVxDt _ => true
  | .ldVxK _ => true
  | .ldDtVx _ => true
  | .ldStVx _ => true
  | .addIVx _ => true
  | .ldFVx _ => true
  | .ldBVx _ => true
  | .ldMemVx _ => true
  | .ldVxMem _ => true

end Sys2Proof
end

