-- ==== Sys2Proof/Decode.lean ====
section
/-!
DEFINITION. The decoder (spec/30_encoding.md R300 to R333), written family by family as R321 to R326 give it; after it
the encoder (R340), and the opcode map of R320 as a table of masks and patterns, a second reading of the same text that
the decoder is claimed equal to.
-/
namespace Sys2Proof

/-- The decoder's verdict on a word: an instruction, or a decode failure that names the word (R320, R330). -/
inductive Decoded where
  | instr (i : Instr)
  | decodeError (w : Word)
  deriving DecidableEq, Repr

/-- Field `op`, `w[15:12]`, the leading nibble (R301). -/
def opField (w : Word) : BitVec 4 := w.extractLsb' 12 4

/-- Field `x`, `w[11:8]` (R301), as a register number (R310). -/
def xField (w : Word) : RegIdx := (w.extractLsb' 8 4).toFin

/-- Field `y`, `w[7:4]` (R301), as a register number (R310). -/
def yField (w : Word) : RegIdx := (w.extractLsb' 4 4).toFin

/-- Field `n`, `w[3:0]`, the trailing nibble (R301). -/
def nField (w : Word) : BitVec 4 := w.extractLsb' 0 4

/-- Field `kk`, `w[7:0]`, the trailing byte (R301). -/
def kkField (w : Word) : Byte := w.extractLsb' 0 8

/-- Field `nnn`, `w[11:0]`, zero-extended to 16 bits (R301, R303). -/
def nnnField (w : Word) : Word := (w.extractLsb' 0 12).setWidth 16

/-- Family 0 (R321): by the trailing nibble alone; when strict only 00E0 and 00EE. -/
def decodeFamily0 (strict : Bool) (w : Word) : Decoded :=
  match strict, nField w with
  | false, 0x0#4 => .instr .cls
  | false, 0xE#4 => .instr .ret
  | true, 0x0#4 => if w = 0x00E0#16 then .instr .cls else .decodeError w
  | true, 0xE#4 => if w = 0x00EE#16 then .instr .ret else .decodeError w
  | _, _ => .decodeError w

/-- Families 5 and 9 (R322): by the leading nibble alone; when strict only `n = 0`. -/
def decodeRegPair (strict : Bool) (w : Word) (i : Instr) : Decoded :=
  if strict && nField w != 0x0#4 then .decodeError w else .instr i

/-- Family 8 (R323): by the trailing nibble. -/
def decodeFamily8 (w : Word) : Decoded :=
  match nField w with
  | 0x0#4 => .instr (.ldVxVy (xField w) (yField w))
  | 0x1#4 => .instr (.orVxVy (xField w) (yField w))
  | 0x2#4 => .instr (.andVxVy (xField w) (yField w))
  | 0x3#4 => .instr (.xorVxVy (xField w) (yField w))
  | 0x4#4 => .instr (.addVxVy (xField w) (yField w))
  | 0x5#4 => .instr (.subVxVy (xField w) (yField w))
  | 0x6#4 => .instr (.shrVx (xField w))
  | 0x7#4 => .instr (.subnVxVy (xField w) (yField w))
  | 0xE#4 => .instr (.shlVx (xField w))
  | _ => .decodeError w

/-- Family E (R324): by the trailing byte. -/
def decodeFamilyE (w : Word) : Decoded :=
  match kkField w with
  | 0x9E#8 => .instr (.skpVx (xField w))
  | 0xA1#8 => .instr (.sknpVx (xField w))
  | _ => .decodeError w

/-- Family F (R325): by the trailing byte. -/
def decodeFamilyF (w : Word) : Decoded :=
  match kkField w with
  | 0x07#8 => .instr (.ldVxDt (xField w))
  | 0x0A#8 => .instr (.ldVxK (xField w))
  | 0x15#8 => .instr (.ldDtVx (xField w))
  | 0x18#8 => .instr (.ldStVx (xField w))
  | 0x1E#8 => .instr (.addIVx (xField w))
  | 0x29#8 => .instr (.ldFVx (xField w))
  | 0x33#8 => .instr (.ldBVx (xField w))
  | 0x55#8 => .instr (.ldMemVx (xField w))
  | 0x65#8 => .instr (.ldVxMem (xField w))
  | _ => .decodeError w

/-- `decode(w)` (R320, R331): total on all words, its result a function of the word and `P_DECODE_STRICT` alone. -/
def decode (strict : Bool) (w : Word) : Decoded :=
  match opField w with
  | 0x0#4 => decodeFamily0 strict w
  | 0x1#4 => .instr (.jpAddr (nnnField w))
  | 0x2#4 => .instr (.callAddr (nnnField w))
  | 0x3#4 => .instr (.seVxByte (xField w) (kkField w))
  | 0x4#4 => .instr (.sneVxByte (xField w) (kkField w))
  | 0x5#4 => decodeRegPair strict w (.seVxVy (xField w) (yField w))
  | 0x6#4 => .instr (.ldVxByte (xField w) (kkField w))
  | 0x7#4 => .instr (.addVxByte (xField w) (kkField w))
  | 0x8#4 => decodeFamily8 w
  | 0x9#4 => decodeRegPair strict w (.sneVxVy (xField w) (yField w))
  | 0xA#4 => .instr (.ldIAddr (nnnField w))
  | 0xB#4 => .instr (.jpV0Addr (nnnField w))
  | 0xC#4 => .instr (.rndVxByte (xField w) (kkField w))
  | 0xD#4 => .instr (.drwVxVyN (xField w) (yField w) (nField w).toNat)
  | 0xE#4 => decodeFamilyE w
  | _ => decodeFamilyF w

/-- A word from its two bytes, the first the high one: `(high << 8) | low` (spec/20_memory.md R202). -/
def wordOfBytes (high low : Byte) : Word := high ++ low

/-- The two bytes of a word as the hardware stores them, the high one at the lower address (R202). -/
def bytesOfWord (w : Word) : List Byte := [w.extractLsb' 8 8, w.extractLsb' 0 8]

/-- The verdict of the decoder on a sequence of bytes: R300 gives every instruction two bytes. -/
inductive DecodedBytes where
  | instr (i : Instr) (rest : List Byte)
  | decodeError (w : Word)
  /-- Fewer than two bytes: no instruction word stands there. -/
  | shortOfAWord
  deriving DecidableEq, Repr

/-- The decoder on any bytes: the first two are the word, the rest is handed back (R300, R202). -/
def decodeBytes (strict : Bool) : List Byte → DecodedBytes
  | high :: low :: rest =>
    match decode strict (wordOfBytes high low) with
    | .instr i => .instr i rest
    | .decodeError w => .decodeError w
  | _ => .shortOfAWord

/-- The host's question about an opcode-table row: the instruction read from the word `w` of `nbits` bits laid out in memory
order, under the default `P_DECODE_STRICT` (R11). -/
def decodeTableWord (nbits w : Nat) : Option Instr :=
  match decodeBytes Config.defaults.decodeStrict (bytesOfWord (BitVec.ofNat 16 (w % 2 ^ nbits))) with
  | .instr i _ => some i
  | .decodeError _ => none
  | .shortOfAWord => none

/-! ## The encoder (R302, R340: ignored fields are written 0, CLS as 00E0, RET as 00EE) -/

/-- Layout op, x, y, n (R302). -/
def packXYN (op : BitVec 4) (x y : RegIdx) (n : BitVec 4) : Word :=
  op ++ (BitVec.ofFin x : BitVec 4) ++ (BitVec.ofFin y : BitVec 4) ++ n

/-- Layout op, x, kk (R302). -/
def packXKk (op : BitVec 4) (x : RegIdx) (kk : Byte) : Word := op ++ (BitVec.ofFin x : BitVec 4) ++ kk

/-- Layout op, nnn (R302); the low 12 bits of the operand. -/
def packNnn (op : BitVec 4) (nnn : Word) : Word := op ++ nnn.extractLsb' 0 12

/-- The word an assembler writes for an instruction (R340). -/
def encode : Instr → Word
  | .cls => 0x00E0
  | .ret => 0x00EE
  | .jpAddr nnn => packNnn 0x1 nnn
  | .callAddr nnn => packNnn 0x2 nnn
  | .seVxByte x kk => packXKk 0x3 x kk
  | .sneVxByte x kk => packXKk 0x4 x kk
  | .seVxVy x y => packXYN 0x5 x y 0x0
  | .ldVxByte x kk => packXKk 0x6 x kk
  | .addVxByte x kk => packXKk 0x7 x kk
  | .ldVxVy x y => packXYN 0x8 x y 0x0
  | .orVxVy x y => packXYN 0x8 x y 0x1
  | .andVxVy x y => packXYN 0x8 x y 0x2
  | .xorVxVy x y => packXYN 0x8 x y 0x3
  | .addVxVy x y => packXYN 0x8 x y 0x4
  | .subVxVy x y => packXYN 0x8 x y 0x5
  | .shrVx x => packXYN 0x8 x 0 0x6
  | .subnVxVy x y => packXYN 0x8 x y 0x7
  | .shlVx x => packXYN 0x8 x 0 0xE
  | .sneVxVy x y => packXYN 0x9 x y 0x0
  | .ldIAddr nnn => packNnn 0xA nnn
  | .jpV0Addr nnn => packNnn 0xB nnn
  | .rndVxByte x kk => packXKk 0xC x kk
  | .drwVxVyN x y n => packXYN 0xD x y (BitVec.ofNat 4 n)
  | .skpVx x => packXKk 0xE x 0x9E
  | .sknpVx x => packXKk 0xE x 0xA1
  | .ldVxDt x => packXKk 0xF x 0x07
  | .ldVxK x => packXKk 0xF x 0x0A
  | .ldDtVx x => packXKk 0xF x 0x15
  | .ldStVx x => packXKk 0xF x 0x18
  | .addIVx x => packXKk 0xF x 0x1E
  | .ldFVx x => packXKk 0xF x 0x29
  | .ldBVx x => packXKk 0xF x 0x33
  | .ldMemVx x => packXKk 0xF x 0x55
  | .ldVxMem x => packXKk 0xF x 0x65

/-! ## The opcode map of R320 as a table -/

/-- One row of R320: the match and mask values by default and when strict (R321, R322), and the instruction a matching
word is, its operands taken from the word's fields. -/
structure OpcodeRow where
  mnemonic : String
  pattern : Word
  mask : Word
  strictPattern : Word
  strictMask : Word
  build : Word → Instr

/-- The row's match value under a setting of `P_DECODE_STRICT`. -/
def OpcodeRow.patternAt (r : OpcodeRow) (strict : Bool) : Word := if strict then r.strictPattern else r.pattern

/-- The row's mask under a setting of `P_DECODE_STRICT`. -/
def OpcodeRow.maskAt (r : OpcodeRow) (strict : Bool) : Word := if strict then r.strictMask else r.mask

/-- The word matches the row: `w & mask = match` (R320). -/
def OpcodeRow.fits (r : OpcodeRow) (strict : Bool) (w : Word) : Bool := w &&& r.maskAt strict == r.patternAt strict

/-- A row whose match and mask do not depend on `P_DECODE_STRICT`. -/
def plainRow (mnemonic : String) (pattern mask : Word) (build : Word → Instr) : OpcodeRow :=
  ⟨mnemonic, pattern, mask, pattern, mask, build⟩

/-- Rows 1 to 9 of R320. -/
def opcodeRows1to9 : List OpcodeRow :=
  [ ⟨"CLS", 0x0000, 0xF00F, 0x00E0, 0xFFFF, fun _ => .cls⟩,
    ⟨"RET", 0x000E, 0xF00F, 0x00EE, 0xFFFF, fun _ => .ret⟩,
    plainRow "JP_addr" 0x1000 0xF000 fun w => .jpAddr (nnnField w),
    plainRow "CALL_addr" 0x2000 0xF000 fun w => .callAddr (nnnField w),
    plainRow "SE_Vx__byte" 0x3000 0xF000 fun w => .seVxByte (xField w) (kkField w),
    plainRow "SNE_Vx__byte" 0x4000 0xF000 fun w => .sneVxByte (xField w) (kkField w),
    ⟨"SE_Vx__Vy", 0x5000, 0xF000, 0x5000, 0xF00F, fun w => .seVxVy (xField w) (yField w)⟩,
    plainRow "LD_Vx__byte" 0x6000 0xF000 fun w => .ldVxByte (xField w) (kkField w),
    plainRow "ADD_Vx__byte" 0x7000 0xF000 fun w => .addVxByte (xField w) (kkField w) ]

/-- Rows 10 to 18 of R320, family 8. -/
def opcodeRows10to18 : List OpcodeRow :=
  [ plainRow "LD_Vx__Vy" 0x8000 0xF00F fun w => .ldVxVy (xField w) (yField w),
    plainRow "OR_Vx__Vy" 0x8001 0xF00F fun w => .orVxVy (xField w) (yField w),
    plainRow "AND_Vx__Vy" 0x8002 0xF00F fun w => .andVxVy (xField w) (yField w),
    plainRow "XOR_Vx__Vy" 0x8003 0xF00F fun w => .xorVxVy (xField w) (yField w),
    plainRow "ADD_Vx__Vy" 0x8004 0xF00F fun w => .addVxVy (xField w) (yField w),
    plainRow "SUB_Vx__Vy" 0x8005 0xF00F fun w => .subVxVy (xField w) (yField w),
    plainRow "SHR_Vx" 0x8006 0xF00F fun w => .shrVx (xField w),
    plainRow "SUBN_Vx__Vy" 0x8007 0xF00F fun w => .subnVxVy (xField w) (yField w),
    plainRow "SHL_Vx" 0x800E 0xF00F fun w => .shlVx (xField w) ]

/-- Rows 19 to 25 of R320. -/
def opcodeRows19to25 : List OpcodeRow :=
  [ ⟨"SNE_Vx__Vy", 0x9000, 0xF000, 0x9000, 0xF00F, fun w => .sneVxVy (xField w) (yField w)⟩,
    plainRow "LD_I__addr" 0xA000 0xF000 fun w => .ldIAddr (nnnField w),
    plainRow "JP_V0__addr" 0xB000 0xF000 fun w => .jpV0Addr (nnnField w),
    plainRow "RND_Vx__byte" 0xC000 0xF000 fun w => .rndVxByte (xField w) (kkField w),
    plainRow "DRW_Vx__Vy__n" 0xD000 0xF000 fun w => .drwVxVyN (xField w) (yField w) (nField w).toNat,
    plainRow "SKP_Vx" 0xE09E 0xF0FF fun w => .skpVx (xField w),
    plainRow "SKNP_Vx" 0xE0A1 0xF0FF fun w => .sknpVx (xField w) ]

/-- Rows 26 to 34 of R320, family F. -/
def opcodeRows26to34 : List OpcodeRow :=
  [ plainRow "LD_Vx__DT" 0xF007 0xF0FF fun w => .ldVxDt (xField w),
    plainRow "LD_Vx__K" 0xF00A 0xF0FF fun w => .ldVxK (xField w),
    plainRow "LD_DT__Vx" 0xF015 0xF0FF fun w => .ldDtVx (xField w),
    plainRow "LD_ST__Vx" 0xF018 0xF0FF fun w => .ldStVx (xField w),
    plainRow "ADD_I__Vx" 0xF01E 0xF0FF fun w => .addIVx (xField w),
    plainRow "LD_F__Vx" 0xF029 0xF0FF fun w => .ldFVx (xField w),
    plainRow "LD_B__Vx" 0xF033 0xF0FF fun w => .ldBVx (xField w),
    plainRow "LD__I___Vx" 0xF055 0xF0FF fun w => .ldMemVx (xField w),
    plainRow "LD_Vx___I" 0xF065 0xF0FF fun w => .ldVxMem (xField w) ]

/-- The opcode map of R320, rows 1 to 34 in order. -/
def opcodeMap : List OpcodeRow := opcodeRows1to9 ++ opcodeRows10to18 ++ opcodeRows19to25 ++ opcodeRows26to34

end Sys2Proof
end

