-- ==== Sys2Proof/Machine/State.lean ====
section
/-!
DEFINITION. The machine's state as plain data: the tuple of spec/10_state.md and the model's own three fields
(the parameters, the count of random bytes drawn, the grids emitted), the reasons a step can stop, and reset (R190).
-/
namespace Sys2Proof.Machine

/-- Why a run ends in error: the causes of spec/60_exceptions.md R901 with their info. -/
inductive Fault where
  /-- Cause 1, raised by the step when the word at pc is a decode failure (R330). Safe: the spec gives this stop. -/
  | decodeError (w : Word)
  /-- Cause 2, raised by CALL when SP = P_STACK_DEPTH, info pc (R121). Safe: the spec gives this stop. -/
  | stackOverflow (pc : Word)
  /-- Cause 3, raised by RET when SP = 0, info pc (R122). Safe: the spec gives this stop. -/
  | stackUnderflow (pc : Word)
  /-- Cause 4, raised by the fetch (info pc) and by DRW, LD B, LD [I] and LD Vx,[I] (info the lowest bad address)
  when an address above 0xFFF is touched (R205, R211). Safe: the spec gives this stop. -/
  | outOfBounds (address : Nat)
  /-- Cause 5, raised by SKP and SKNP under P_KEY_OOR = Fault and by LD F under P_FONT_OOR = Fault when V[x] > 15
  (R460, R461, R620). Safe: the spec gives this stop. -/
  | operandOutOfRange (value : Byte)
  deriving DecidableEq, Repr

/-- Why no step is taken. -/
inductive Refusal where
  /-- An instruction that has no meaning in the model; no arm answers it, every instruction has its meaning. Safe. -/
  | notModelled (mnemonic : String)
  /-- Raised by the step when Run is not Running: a step is taken only in Running (R400, R160). Safe: nothing runs. -/
  | runEnded
  deriving DecidableEq, Repr

/-- `Run` (R160). -/
inductive RunState where
  | running
  | faulted (f : Fault)
  | terminated
  deriving DecidableEq, Repr

/-- `M` as a list of cells: the bytes that differ from the reset contents (R110; notes/assumptions/3.md). Its canonical
form is Memory.wf of Machine/Ops.lean. -/
abbrev Memory := List Host.Cell

/-- `FB`: 32 rows of 64 one-bit pixels, row-major (R130). -/
abbrev Framebuffer := Vector (Vector Bool 64) 32

/-- `FB` all 0 (R190, R710). -/
def Framebuffer.blank : Framebuffer := Vector.replicate 32 (Vector.replicate 64 false)

/-- The whole state of the block (spec/10_state.md, R170), and the model's own last three fields. -/
structure State where
  /-- `V[0..15]` (R100); `VF` is `V[15]` (R101). -/
  v : Vector Byte 16
  /-- `I`, all 16 bits stored (R106). -/
  i : Word
  /-- `pc` (R104). -/
  pc : Word
  /-- `SP`, the number of entries pushed (R120). -/
  sp : Fin 17
  /-- `S[0..15]` (R120). -/
  stack : Vector Word 16
  /-- `M` (R110). -/
  mem : Memory
  /-- `FB` (R130). -/
  fb : Framebuffer
  /-- `DT`, the delay timer (R140). -/
  dt : Byte
  /-- `ST`, the sound timer (R140). -/
  st : Byte
  /-- `Keys[0..15]` (R150). -/
  keys : Vector Bool 16
  /-- `LastPressed`: none, or the key most recently pressed (R150). -/
  lastPressed : Option KeyIdx
  /-- `Run` (R160). -/
  run : RunState
  /-- The named parameters (R11); never changed (notes/assumptions/1.md). -/
  params : Params
  /-- How many bytes RND has drawn from `rand_in` (R560; notes/assumptions/4.md). -/
  draws : Nat
  /-- The grids emitted on `display_out`, newest first (R131; notes/assumptions/5.md). -/
  displayOut : List Framebuffer
  deriving DecidableEq, Repr

/-- The state right after reset with an empty program image, under given parameters (R190, R1000): memory lists nothing,
since an unlisted byte reads as the font table or 0. -/
def State.resetWith (p : Params) : State where
  v := Vector.replicate 16 0
  i := 0
  pc := 0x200
  sp := 0
  stack := Vector.replicate 16 0
  mem := []
  fb := Framebuffer.blank
  dt := 0
  st := 0
  keys := Vector.replicate 16 false
  lastPressed := none
  run := .running
  params := p
  draws := 0
  displayOut := []

/-- The state right after reset under the default parameters (R190, R11). -/
def State.reset : State := State.resetWith Config.defaults

end Sys2Proof.Machine
end

