-- ==== Sys2Proof/Machine/Ops.lean ====
section
/-!
DEFINITION. The named operations over memory, registers, stack, framebuffer, timers and keys; the dispositions; raising a
fault (this hardware's only exception: it ends the run, spec/60_exceptions.md R900, R921; there is no return, R922); the fetch.
-/
namespace Sys2Proof.Machine

/-- What executing an instruction answers. -/
abbrev Result := Host.Outcome State Fault Refusal

/-! ## Memory (spec/20_memory.md) -/

/-- The byte at `a` in a list of cells over the reset contents `base`. -/
def Memory.read (base : Nat → Byte) : Memory → Nat → Byte
  | [], a => base a
  | (k, b) :: m, a => if k = a then b else Memory.read base m a

/-- The cells without address `a`. -/
def Memory.erase : Memory → Nat → Memory
  | [], _ => []
  | (k, b) :: m, a => if k = a then Memory.erase m a else (k, b) :: Memory.erase m a

/-- The cells with `(a, b)` put before the first higher address. -/
def Memory.insert : Memory → Nat → Byte → Memory
  | [], a, b => [(a, b)]
  | (k, c) :: m, a, b => if a < k then (a, b) :: (k, c) :: m else (k, c) :: Memory.insert m a b

/-- Write byte `b` at `a`: writing what an unlisted address reads as removes the entry, so the form stays canonical. -/
def Memory.write (base : Nat → Byte) (m : Memory) (a : Nat) (b : Byte) : Memory :=
  if b = base a then m.erase a else (m.erase a).insert a b

/-- Canonical from address `lo` on: addresses strictly rising, below 0x1000 (R200), no entry equal to `base`. -/
def Memory.wfFrom (base : Nat → Byte) (lo : Nat) : Memory → Bool
  | [] => true
  | (k, b) :: m => decide (lo ≤ k) && decide (k < 0x1000) && decide (b ≠ base k) && Memory.wfFrom base (k + 1) m

/-- The canonical form of memory. -/
def Memory.wf (base : Nat → Byte) (m : Memory) : Bool := Memory.wfFrom base 0 m

/-- What an unlisted address reads as: the reset contents without a program image, glyph `d` of the font table at `5 * d`
(R111, R214) and 0 above (R113, R114, R190). -/
def State.unlisted (s : State) (a : Nat) : Byte :=
  if a < 80 then s.params.fontTable[Fin.ofNat 16 (a / 5)][Fin.ofNat 5 (a % 5)] else 0

/-- `MemRead(a, 1)` within bounds (R13, R220). -/
def State.readByte (s : State) (a : Nat) : Byte := Memory.read s.unlisted s.mem a

/-- `MemWrite(a, 1, b)` within bounds (R13, R212). -/
def State.writeByte (s : State) (a : Nat) (b : Byte) : State := { s with mem := Memory.write s.unlisted s.mem a b }

/-- The `n` bytes from address `a` on, in increasing order (R220). -/
def State.readBytes (s : State) (a : Nat) : Nat → List Byte
  | 0 => []
  | n + 1 => s.readByte a :: s.readBytes (a + 1) n

/-- Write the bytes at `a`, `a + 1`, … in increasing order (R203, R220). -/
def State.writeBytes (s : State) (a : Nat) : List Byte → State
  | [] => s
  | b :: bs => (s.writeByte a b).writeBytes (a + 1) bs

/-- `MemRead(a, 2) = (M[a] << 8) | M[a+1]` (R202). -/
def State.readWord (s : State) (a : Nat) : Word := wordOfBytes (s.readByte a) (s.readByte (a + 1))

/-! ## Registers -/

/-- `V[x]` (R13). -/
def State.reg (s : State) (x : RegIdx) : Byte := s.v[x]

/-- `V[x] <- b` (R13). -/
def State.setReg (s : State) (x : RegIdx) (b : Byte) : State := { s with v := s.v.set x b }

/-- `I <- w`. -/
def State.setI (s : State) (w : Word) : State := { s with i := w }

/-- `pc <- w`. -/
def State.setPc (s : State) (w : Word) : State := { s with pc := w }

/-- `TimerSet(DT, b)` (R140). -/
def State.setDt (s : State) (b : Byte) : State := { s with dt := b }

/-- `TimerSet(ST, b)` (R140). -/
def State.setSt (s : State) (b : Byte) : State := { s with st := b }

/-- `LastPressed <- k`. -/
def State.setLastPressed (s : State) (k : Option KeyIdx) : State := { s with lastPressed := k }

/-- `Run <- r` (R160). -/
def State.setRun (s : State) (r : RunState) : State := { s with run := r }

/-- `RandomByte()` (R13, R560): the byte `rand_in` gives this draw, a free value (notes/assumptions/4.md). -/
def State.randomByte (s : State) : Byte := Config.randomByte s.draws

/-- One byte more has been drawn from `rand_in`. -/
def State.countDraw (s : State) : State := { s with draws := s.draws + 1 }

/-! ## Dispositions (spec/40_sequencer_control.md R402) -/

/-- How an instruction moves pc (R402). -/
inductive Disposition where
  | next
  | skip (c : Bool)
  | jump (a : Word)
  | stall
  deriving DecidableEq, Repr

/-- `NextPc(pc, d)`, sums mod 2^16 (R402, R105). -/
def nextPc (pc : Word) : Disposition → Word
  | .next => pc + 2
  | .skip c => if c then pc + 4 else pc + 2
  | .jump a => a
  | .stall => pc

/-- The end of an instruction that raised no fault: the disposition is applied to pc (R400 point 4). -/
def State.finish (s : State) (d : Disposition) : Result := .next (s.setPc (nextPc s.pc d))

/-! ## Faults (spec/60_exceptions.md) -/

/-- `raise Fault(cause, info)` inside an instruction: nothing is written, the step answers the fault (R900, R403). -/
def raise (f : Fault) : Result := .fault f

/-- The state a fault leaves: the state before the faulting instruction, and `Run <- Faulted` (R900, R921). -/
def State.halt (s : State) (f : Fault) : State := s.setRun (.faulted f)

/-- The cause's code on `halt_out` (R901). -/
def faultCode : Fault → Nat
  | .decodeError _ => 1
  | .stackOverflow _ => 2
  | .stackUnderflow _ => 3
  | .outOfBounds _ => 4
  | .operandOutOfRange _ => 5

/-- The info on `halt_out` (R901). -/
def faultInfo : Fault → Nat
  | .decodeError w => w.toNat
  | .stackOverflow pc => pc.toNat
  | .stackUnderflow pc => pc.toNat
  | .outOfBounds a => a
  | .operandOutOfRange b => b.toNat

/-- An instruction that touches the `len` bytes from `I` on: every address is checked before anything is written, and the
fault's info is the lowest address above 0xFFF (R210, R211). With `len = 0` nothing is touched. -/
def State.withSpan (s : State) (len : Nat) (body : Result) : Result :=
  if 0 < len ∧ 0xFFF < s.i.toNat + len - 1 then raise (.outOfBounds (max s.i.toNat 0x1000)) else body

/-! ## Call stack (spec/10_state.md R120 to R123) -/

/-- The state after an entry is pushed on a stack that is not full (R121). -/
def State.pushed (s : State) (w : Word) : State :=
  { s with stack := s.stack.setIfInBounds s.sp.val w, sp := Fin.ofNat 17 (s.sp.val + 1) }

/-- `Push(w)` and then `Jump(a)`, or StackOverflow on a full stack (R121, R411; notes/assumptions/8.md on the bound). -/
def State.pushJump (s : State) (w a : Word) : Result :=
  if s.params.stackDepth.toNat ≤ s.sp.val then raise (.stackOverflow s.pc) else (s.pushed w).finish (.jump a)

/-- The slot below the stack pointer, `S[SP-1]` (R122). -/
def State.top (s : State) : Word := s.stack[Fin.ofNat 16 (s.sp.val - 1)]

/-- The state after the top entry is popped (R122); the slot keeps its stale value (R120). -/
def State.popped (s : State) : State := { s with sp := Fin.ofNat 17 (s.sp.val - 1) }

/-- `Pop()` and then `Jump` to the popped value, or StackUnderflow on an empty stack (R122, R410). -/
def State.popJump (s : State) : Result :=
  if s.sp = 0 then raise (.stackUnderflow s.pc) else s.popped.finish (.jump s.top)

/-! ## Framebuffer (spec/44_display.md R700 to R702) -/

/-- `FB[r][c]` (R13). -/
def Framebuffer.pixel (fb : Framebuffer) (r : Fin 32) (c : Fin 64) : Bool := fb[r][c]

/-- `FB[r][c] <- b`. -/
def Framebuffer.setPixel (fb : Framebuffer) (r : Fin 32) (c : Fin 64) (b : Bool) : Framebuffer :=
  fb.set r (fb[r].set c b)

/-- A blit in progress: the grid, and whether a pixel has been erased so far. -/
structure Blit where
  fb : Framebuffer
  collided : Bool
  deriving DecidableEq, Repr

/-- One pixel of the blit: the collision is noted, then the pixel is XORed (R700, R701). -/
def blitPixel (z : Blit) (row : Fin 32) (col : Fin 64) (bit : Bool) : Blit where
  fb := z.fb.setPixel row col (z.fb.pixel row col ^^ bit)
  collided := z.collided || (bit && z.fb.pixel row col)

/-- The first `n` columns of one sprite row, MSB first, columns mod 64 (R700). -/
def blitColumns (row : Fin 32) (sx : Nat) (b : Byte) : Nat → Blit → Blit
  | 0, z => z
  | c + 1, z => blitPixel (blitColumns row sx b c z) row (Fin.ofNat 64 (sx + c)) (b.getLsbD (7 - c))

/-- The sprite's rows from screen row `sy` on, rows mod 32 (R700). -/
def blitRows (sx : Nat) : Nat → List Byte → Blit → Blit
  | _, [], z => z
  | sy, b :: bs, z => blitRows sx (sy + 1) bs (blitColumns (Fin.ofNat 32 sy) sx b 8 z)

/-- `Draw(sprite, sx, sy)`: the new grid and `collided` (R700, R701; what becomes of R704's second sentence:
notes/assumptions/11.md). -/
def draw (fb : Framebuffer) (sprite : List Byte) (sx sy : Byte) : Blit :=
  blitRows sx.toNat sy.toNat sprite ⟨fb, false⟩

/-- `FB <- g`. -/
def State.setFb (s : State) (g : Framebuffer) : State := { s with fb := g }

/-- `emit DisplayUpdate`: the full grid goes out on `display_out` (R131). -/
def State.emitDisplay (s : State) : State := { s with displayOut := s.fb :: s.displayOut }

/-! ## Fetch and decode (spec/20_memory.md R205, spec/40_sequencer_control.md R400) -/

/-- What the first two parts of a step find. -/
inductive Fetched where
  | instr (i : Instr)
  | fault (f : Fault)
  deriving DecidableEq, Repr

/-- Decode a fetched word under the machine's `P_DECODE_STRICT` (R400 point 2, R330). -/
def State.decodeWord (s : State) (w : Word) : Fetched :=
  match decode s.params.decodeStrict w with
  | .instr i => .instr i
  | .decodeError w' => .fault (.decodeError w')

/-- Fetch and decode at pc: the bound first, then decode (R205, R910). -/
def State.fetch (s : State) : Fetched :=
  if 0xFFF < s.pc.toNat + 1 then .fault (.outOfBounds s.pc.toNat) else s.decodeWord (s.readWord s.pc.toNat)

/-- The state with an instruction word stored at pc, high byte first (R202); only where a fetch can read it. -/
def State.placeWord (s : State) (w : Word) : State :=
  if 0xFFF < s.pc.toNat + 1 then s else s.writeBytes s.pc.toNat (bytesOfWord w)

end Sys2Proof.Machine
end

