-- ==== Sys2Proof/Machine/Flags.lean ====
section
/-!
DEFINITION. Every computation of the flag VF that the spec gives (spec/10_state.md R102), and its write. VF is V[15] (R101).
-/
namespace Sys2Proof.Machine

/-- The register that is VF (R101). -/
def flagReg : RegIdx := 15

/-- A flag as the byte VF receives. -/
def flagByte (c : Bool) : Byte := if c then 1 else 0

/-- `VF <- 1 if c else 0`. -/
def State.setFlag (s : State) (c : Bool) : State := s.setReg flagReg (flagByte c)

/-- ADD's carry: `a + b > 255` (R520). -/
def carryOf (a b : Byte) : Bool := 255 < a.toNat + b.toNat

/-- The subtractions' no-borrow flag for `a - b`: `a > b` (R521, R523; C3, D29). -/
def noBorrowOf (a b : Byte) : Bool := b.toNat < a.toNat

/-- SHR's flag: bit 0 of the old value (R522). -/
def lowBitOf (a : Byte) : Bool := a.getLsbD 0

/-- SHL's flag: bit 7 of the old value (R524). -/
def highBitOf (a : Byte) : Bool := a.getLsbD 7

/-- ADD I's flag under `P_ADD_I_VF = Overflow`: the sum leaves 12 bits (R610). -/
def leaves12Bits (i : Word) (b : Byte) : Bool := 0xFFF < i.toNat + b.toNat

/-- ADD I's write of VF, by `P_ADD_I_VF` (R610, D4); the operands are those read before any write. -/
def State.setAddIFlag (s : State) (i : Word) (b : Byte) : State :=
  match s.params.addIVf with
  | .unchanged => s
  | .overflow => s.setFlag (leaves12Bits i b)

end Sys2Proof.Machine
end

