-- ==== Sys2Proof/Machine/Operands.lean ====
section
/-!
DEFINITION. The operand forms: a byte widened to 16 bits, the value of Vx as a key number or as a digit with its
out-of-range case, the decimal digits of Vx, and the register ranges V0 to Vx in memory.
-/
namespace Sys2Proof.Machine

/-- `zext_16` of a byte (R13). -/
def zext16 (b : Byte) : Word := b.setWidth 16

/-- A register value as a key number or hexadecimal digit: none when it is above 15 (R460, R461, R620). -/
def nibbleOf (b : Byte) : Option (Fin 16) := if h : b.toNat < 16 then some ⟨b.toNat, h⟩ else none

/-- The skip of SKP and SKNP: on a value above 15 a fault or "not pressed", by `P_KEY_OOR`; else `Keys[k]`. `wanted` is the
key level the instruction skips on (R460: true, R461: false). -/
def State.skipOnKey (s : State) (b : Byte) (wanted : Bool) : Result :=
  match nibbleOf b, s.params.keyOor with
  | some k, _ => s.finish (.skip (s.keys[k] == wanted))
  | none, .fault => raise (.operandOutOfRange b)
  | none, .notPressed => s.finish (.skip (false == wanted))

/-- The address of the glyph of a digit, `5 * d` (R111, R620). -/
def glyphAddress (d : Fin 16) : Word := BitVec.ofNat 16 (5 * d)

/-- The hundreds, tens and ones digits of a byte (R630). -/
def decimalDigits (b : Byte) : List Byte :=
  [BitVec.ofNat 8 (b.toNat / 100), BitVec.ofNat 8 (b.toNat / 10 % 10), BitVec.ofNat 8 (b.toNat % 10)]

/-- `for k in 0 .. n-1: MemWrite(a + k, 1, V[k])` (R640). -/
def State.storeRegs (s : State) (a : Nat) : Nat → State
  | 0 => s
  | k + 1 => (s.storeRegs a k).writeByte (a + k) (s.reg (Fin.ofNat 16 k))

/-- `for k in 0 .. n-1: V[k] <- MemRead(a + k, 1)` (R641). -/
def State.loadRegs (s : State) (a : Nat) : Nat → State
  | 0 => s
  | k + 1 => (s.loadRegs a k).setReg (Fin.ofNat 16 k) (s.readByte (a + k))

end Sys2Proof.Machine
end

