-- ==== Sys2Proof/Machine/AddressMemory.lean ====
section
/-!
DEFINITION. The address register and memory instructions (spec/43_address_memory.md R600 to R641).
-/
namespace Sys2Proof.Machine

/-- `LD I, addr` (R600). -/
def execLdIAddr (nnn : Word) (s : State) : Result := (s.setI nnn).finish .next

/-- `ADD I, Vx` (R610): the sum mod 2^16, not masked to 12 bits (D5); VF by `P_ADD_I_VF` (D4). -/
def execAddIVx (x : RegIdx) (s : State) : Result :=
  ((s.setI (s.i + zext16 (s.reg x))).setAddIFlag s.i (s.reg x)).finish .next

/-- `LD F, Vx` (R620): `5 * Vx`, or by `P_FONT_OOR` when Vx is no digit (D11). -/
def execLdFVx (x : RegIdx) (s : State) : Result :=
  match nibbleOf (s.reg x), s.params.fontOor with
  | some d, _ => (s.setI (glyphAddress d)).finish .next
  | none, .fault => raise (.operandOutOfRange (s.reg x))
  | none, .unchanged => s.finish .next

/-- `LD B, Vx` (R630). -/
def execLdBVx (x : RegIdx) (s : State) : Result :=
  s.withSpan 3 ((s.writeBytes s.i.toNat (decimalDigits (s.reg x))).finish .next)

/-- `LD [I], Vx` (R640): V0 to Vx inclusive; I unchanged. -/
def execLdMemVx (x : RegIdx) (s : State) : Result :=
  s.withSpan (x.val + 1) ((s.storeRegs s.i.toNat (x.val + 1)).finish .next)

/-- `LD Vx, [I]` (R641): V0 to Vx inclusive; I unchanged. -/
def execLdVxMem (x : RegIdx) (s : State) : Result :=
  s.withSpan (x.val + 1) ((s.loadRegs s.i.toNat (x.val + 1)).finish .next)

end Sys2Proof.Machine
end

