-- ==== Sys2Proof/Machine/Alu.lean ====
section
/-!
DEFINITION. The 8-bit ALU (spec/42_alu.md R500 to R560): load, arithmetic, logic, shift, random. Operands are read before any
write, and the flag is written before the result, so with `x = F` the result remains (R530, R14).
-/
namespace Sys2Proof.Machine

/-- `LD Vx, byte` (R500). -/
def execLdVxByte (x : RegIdx) (kk : Byte) (s : State) : Result := (s.setReg x kk).finish .next

/-- `ADD Vx, byte` (R501): no flag (D20). -/
def execAddVxByte (x : RegIdx) (kk : Byte) (s : State) : Result := (s.setReg x (s.reg x + kk)).finish .next

/-- `LD Vx, Vy` (R510). -/
def execLdVxVy (x y : RegIdx) (s : State) : Result := (s.setReg x (s.reg y)).finish .next

/-- `OR Vx, Vy` (R511): no flag (D20). -/
def execOrVxVy (x y : RegIdx) (s : State) : Result := (s.setReg x (s.reg x ||| s.reg y)).finish .next

/-- `AND Vx, Vy` (R512): no flag (D20). -/
def execAndVxVy (x y : RegIdx) (s : State) : Result := (s.setReg x (s.reg x &&& s.reg y)).finish .next

/-- `XOR Vx, Vy` (R513): no flag (D20). -/
def execXorVxVy (x y : RegIdx) (s : State) : Result := (s.setReg x (s.reg x ^^^ s.reg y)).finish .next

/-- The order of R530 for the instructions that write a flag and a result: the flag first, the result second. -/
def State.flagThenResult (s : State) (x : RegIdx) (c : Bool) (b : Byte) : Result :=
  ((s.setFlag c).setReg x b).finish .next

/-- `ADD Vx, Vy` (R520). -/
def execAddVxVy (x y : RegIdx) (s : State) : Result :=
  s.flagThenResult x (carryOf (s.reg x) (s.reg y)) (s.reg x + s.reg y)

/-- `SUB Vx, Vy` (R521): VF = 1 iff Vx > Vy. -/
def execSubVxVy (x y : RegIdx) (s : State) : Result :=
  s.flagThenResult x (noBorrowOf (s.reg x) (s.reg y)) (s.reg x - s.reg y)

/-- `SHR Vx` (R522). -/
def execShrVx (x : RegIdx) (s : State) : Result := s.flagThenResult x (lowBitOf (s.reg x)) (s.reg x >>> 1)

/-- `SUBN Vx, Vy` (R523): VF = 1 iff Vy > Vx. -/
def execSubnVxVy (x y : RegIdx) (s : State) : Result :=
  s.flagThenResult x (noBorrowOf (s.reg y) (s.reg x)) (s.reg y - s.reg x)

/-- `SHL Vx` (R524). -/
def execShlVx (x : RegIdx) (s : State) : Result := s.flagThenResult x (highBitOf (s.reg x)) (s.reg x <<< 1)

/-- `RND Vx, byte` (R560): a free byte masked. -/
def execRndVxByte (x : RegIdx) (kk : Byte) (s : State) : Result :=
  (s.countDraw.setReg x (s.randomByte &&& kk)).finish .next

end Sys2Proof.Machine
end

