-- ==== Sys2Proof/Machine/Control.lean ====
section
/-!
DEFINITION. The control transfers: RET, CALL, JP, JP V0 (spec/40_sequencer_control.md R410 to R413).
-/
namespace Sys2Proof.Machine

/-- `RET` (R410). -/
def execRet (s : State) : Result := s.popJump

/-- `JP addr` (R412). -/
def execJpAddr (nnn : Word) (s : State) : Result := s.finish (.jump nnn)

/-- `CALL addr` (R411): the address of the instruction following the call is pushed. -/
def execCallAddr (nnn : Word) (s : State) : Result := s.pushJump (s.pc + 2) nnn

/-- `JP V0, addr` (R413): the sum is not masked to 12 bits (D19). -/
def execJpV0Addr (nnn : Word) (s : State) : Result := s.finish (.jump (nnn + zext16 (s.reg 0)))

end Sys2Proof.Machine
end

