-- ==== Sys2Proof/Machine/Display.lean ====
section
/-!
DEFINITION. The display instructions (spec/44_display.md R710, R720). Each emits the full grid (R131).
-/
namespace Sys2Proof.Machine

/-- `CLS` (R710): VF is not written. -/
def execCls (s : State) : Result := (s.setFb Framebuffer.blank).emitDisplay.finish .next

/-- What `DRW` draws: the `n` bytes from I at (V[x], V[y]), all read before any write (R720). -/
def State.spriteDrawn (s : State) (x y : RegIdx) (n : Nat) : Blit :=
  draw s.fb (s.readBytes s.i.toNat n) (s.reg x) (s.reg y)

/-- `DRW Vx, Vy, n` (R720): VF receives the collision; `n = 0` draws nothing and reads nothing (D9). -/
def execDrwVxVyN (x y : RegIdx) (n : Nat) (s : State) : Result :=
  s.withSpan n
    (((s.setFb (s.spriteDrawn x y n).fb).setFlag (s.spriteDrawn x y n).collided).emitDisplay.finish .next)

end Sys2Proof.Machine
end

