-- ==== Sys2Proof/Machine/Skips.lean ====
section
/-!
DEFINITION. The conditional skips (spec/41_skips.md R450 to R461). None writes a register, memory or flag.
-/
namespace Sys2Proof.Machine

/-- `SE Vx, byte` (R450). -/
def execSeVxByte (x : RegIdx) (kk : Byte) (s : State) : Result := s.finish (.skip (s.reg x == kk))

/-- `SNE Vx, byte` (R451). -/
def execSneVxByte (x : RegIdx) (kk : Byte) (s : State) : Result := s.finish (.skip (s.reg x != kk))

/-- `SE Vx, Vy` (R452). -/
def execSeVxVy (x y : RegIdx) (s : State) : Result := s.finish (.skip (s.reg x == s.reg y))

/-- `SNE Vx, Vy` (R453). -/
def execSneVxVy (x y : RegIdx) (s : State) : Result := s.finish (.skip (s.reg x != s.reg y))

/-- `SKP Vx` (R460): skip if the key is pressed in the current snapshot. -/
def execSkpVx (x : RegIdx) (s : State) : Result := s.skipOnKey (s.reg x) true

/-- `SKNP Vx` (R461): skip if the key is not pressed in the current snapshot. -/
def execSknpVx (x : RegIdx) (s : State) : Result := s.skipOnKey (s.reg x) false

end Sys2Proof.Machine
end

