-- ==== Sys2Proof/Machine/TimersInput.lean ====
section
/-!
DEFINITION. The timer and key-wait instructions (spec/45_timers_input.md R800 to R810).
-/
namespace Sys2Proof.Machine

/-- `LD Vx, DT` (R800). -/
def execLdVxDt (x : RegIdx) (s : State) : Result := (s.setReg x s.dt).finish .next

/-- `LD DT, Vx` (R801). -/
def execLdDtVx (x : RegIdx) (s : State) : Result := (s.setDt (s.reg x)).finish .next

/-- `LD ST, Vx` (R802). -/
def execLdStVx (x : RegIdx) (s : State) : Result := (s.setSt (s.reg x)).finish .next

/-- `LD Vx, K` (R810): a recorded press is consumed; without one the instruction stalls and writes nothing (D13). -/
def execLdVxK (x : RegIdx) (s : State) : Result :=
  match s.lastPressed with
  | some k => ((s.setReg x (BitVec.ofNat 8 k.val)).setLastPressed none).finish .next
  | none => s.finish .stall

end Sys2Proof.Machine
end

