-- ==== Sys2Proof/Machine/Sequencer.lean ====
section
/-!
DEFINITION. The program-counter sequencer: one step of the block (spec/40_sequencer_control.md R400), and the state a step
leaves when it ends the run (spec/60_exceptions.md R900).
-/
namespace Sys2Proof.Machine

/-- What fetch and decode found is executed, or its fault raised (R400, R910). -/
def runFetched (f : Fetched) (s : State) : Result :=
  match f with
  | .instr i => exec i s
  | .fault f => raise f

/-- One step of R400, taken only when `Run = Running` (R160); otherwise no step is taken (notes/assumptions/6.md). -/
def runStep (s : State) : Result :=
  match s.run with
  | .running => runFetched s.fetch s
  | .faulted _ => .refused .runEnded
  | .terminated => .refused .runEnded

/-- The state the block is in once an answer has been given: the next state; the halted state of R900 on a fault;
the same state where no step was taken. -/
def State.settle (s : State) (r : Result) : State :=
  match r with
  | .next t => t
  | .fault f => s.halt f
  | .refused _ => s

end Sys2Proof.Machine
end

