-- ==== Sys2Proof/Machine/Step.lean ====
section
/-!
DEFINITION. The step of the machine and the placing of an instruction where it is fetched next.
-/
namespace Sys2Proof.Machine

/-- One step of the block (spec/40_sequencer_control.md R400). -/
def step (s : State) : Host.Outcome State Fault Refusal := runStep s

/-- `s` with the instruction whose bits are `w` stored at pc, big-endian (spec/20_memory.md R202, R205); nothing else changes. -/
def State.withFetchWord (s : State) (nbits w : Nat) : State := s.placeWord (BitVec.ofNat 16 (w % 2 ^ nbits))

end Sys2Proof.Machine
end

