-- ==== Sys2Proof/Machine/HostPort.lean ====
section
/-!
DEFINITION. The block's host interface (spec/00_scope.md R20, R21): program loading at reset, the host's events between
steps, the outputs the host sees, and a run of the block as a list of events in any order.
-/
namespace Sys2Proof.Machine

/-! ## Reset and load (spec/70_reset_and_hazards.md R1000, R1003) -/

/-- `load(bytes)`: the first 3584 bytes from 0x200 on; the rest is dropped without an error (R1003). -/
def State.load (s : State) (image : List Byte) : State := s.writeBytes 0x200 (image.take 3584)

/-- The construction of the block for one program run: reset, then load (R1000). -/
def State.construct (p : Params) (image : List Byte) : State := (State.resetWith p).load image

/-! ## Events between steps -/

/-- What the host can do to the block after reset (R20). -/
inductive HostEvent where
  /-- Request one step (R400). -/
  | step
  /-- Decrement both timers (R141). -/
  | tick
  /-- A key snapshot (R151). -/
  | keysIn (keys : Vector Bool 16) (last : Option KeyIdx)
  /-- Stop the run cleanly (R960). -/
  | terminate
  deriving DecidableEq, Repr

/-- A timer after one decrement, saturating at 0 (R141). -/
def countDown (b : Byte) : Byte := if b = 0 then 0 else b - 1

/-- An event changes the state only while `Run = Running` (R911). -/
def State.whileRunning (s t : State) : State :=
  match s.run with
  | .running => t
  | .faulted _ => s
  | .terminated => s

/-- `tick` (R141). -/
def State.tick (s : State) : State := s.whileRunning { s with dt := countDown s.dt, st := countDown s.st }

/-- `keys_in(keys, last)` replaces the key state (R151, C9). -/
def State.keysIn (s : State) (keys : Vector Bool 16) (last : Option KeyIdx) : State :=
  s.whileRunning { s with keys := keys, lastPressed := last }

/-- `terminate` (R960). -/
def State.terminate (s : State) : State := s.whileRunning (s.setRun .terminated)

/-- The state after one event; a step that faults leaves the halted state (R900). -/
def State.apply (s : State) : HostEvent → State
  | .step => s.settle (step s)
  | .tick => s.tick
  | .keysIn keys last => s.keysIn keys last
  | .terminate => s.terminate

/-- The state after a list of events, first to last. Every list is a run: the order is free (R21, D26). -/
def State.applyAll (s : State) : List HostEvent → State
  | [] => s
  | e :: es => (s.apply e).applyAll es

/-! ## Outputs -/

/-- `sound_out`: `ST > 0` (R142). -/
def State.soundOut (s : State) : Bool := 0 < s.st.toNat

/-- What an event sends on `halt_out`: the fault's code and info when the event is a step that faults, so once in a run
(R900, R901). -/
def State.haltOut (s : State) : HostEvent → Option (Nat × Nat)
  | .step =>
    match step s with
    | .fault f => some (faultCode f, faultInfo f)
    | .next _ => none
    | .refused _ => none
  | .tick => none
  | .keysIn _ _ => none
  | .terminate => none

end Sys2Proof.Machine
end

