-- ==== Sys2Proof/Safety.lean ====
section
/-!
DEFINITION. The terms the claims are stated in: the invariant of the machine, which registers and bytes of memory an
instruction may write (the tables of spec/10_state.md R102, R103 and spec/20_memory.md R201), and the sprite as a picture on
the grid (spec/44_display.md R700).
-/
namespace Sys2Proof.Machine

/-- Memory is in its canonical form: addresses rising, below 0x1000, no entry equal to the reset contents. -/
def State.memWf (s : State) : Bool := s.mem.wf s.unlisted

/-- What every step and every host event keeps, and reset has. -/
structure Inv (s : State) : Prop where
  /-- Memory is in its canonical form. -/
  memCanonical : s.memWf = true
  /-- `0 <= SP <= P_STACK_DEPTH` (R120). -/
  stackBound : s.sp.val ≤ s.params.stackDepth.toNat
  /-- No reachable pc exceeds 0x10FE (R105). -/
  pcBound : s.pc.toNat ≤ 0x10FE
  /-- A return address is at most 0x1000: CALL stands at 0xFFE or below (R205, R411). -/
  returnsBound : ∀ k : Fin 16, s.stack[k].toNat ≤ 0x1000
  /-- The display has been sent the grid as it is, or nothing yet and the grid is blank (R131, R190). -/
  shown : s.displayOut.head?.getD Framebuffer.blank = s.fb

/-- A step from this state ends the run in error. -/
def State.Faults (s : State) : Prop := ∃ f, step s = .fault f

/-- A run of events that never faults, however the host interleaves them. -/
def State.SafeFor (s : State) (es : List HostEvent) : Prop := ∀ f, (s.applyAll es).run ≠ .faulted f

/-- Which registers an instruction may write (R102, R103): its destinations, and VF where R102 lists it. -/
def writesReg (p : Params) (i : Instr) (r : RegIdx) : Bool :=
  match i with
  | .ldVxByte x _ => r == x
  | .addVxByte x _ => r == x
  | .ldVxVy x _ => r == x
  | .orVxVy x _ => r == x
  | .andVxVy x _ => r == x
  | .xorVxVy x _ => r == x
  | .addVxVy x _ => r == x || r == 15
  | .subVxVy x _ => r == x || r == 15
  | .shrVx x => r == x || r == 15
  | .subnVxVy x _ => r == x || r == 15
  | .shlVx x => r == x || r == 15
  | .rndVxByte x _ => r == x
  | .drwVxVyN _ _ _ => r == 15
  | .ldVxDt x => r == x
  | .ldVxK x => r == x
  | .addIVx _ => p.addIVf == .overflow && r == 15
  | .ldVxMem x => decide (r ≤ x)
  | .cls => false
  | .ret => false
  | .jpAddr _ => false
  | .callAddr _ => false
  | .seVxByte _ _ => false
  | .sneVxByte _ _ => false
  | .seVxVy _ _ => false
  | .sneVxVy _ _ => false
  | .ldIAddr _ => false
  | .jpV0Addr _ => false
  | .skpVx _ => false
  | .sknpVx _ => false
  | .ldDtVx _ => false
  | .ldStVx _ => false
  | .ldFVx _ => false
  | .ldBVx _ => false
  | .ldMemVx _ => false

/-- How many bytes from `I` on an instruction stores (R201): 3 for LD B, x + 1 for LD [I], none otherwise. -/
def storedBytes (i : Instr) : Nat :=
  match i with
  | .ldBVx _ => 3
  | .ldMemVx x => x.val + 1
  | .cls => 0
  | .ret => 0
  | .jpAddr _ => 0
  | .callAddr _ => 0
  | .seVxByte _ _ => 0
  | .sneVxByte _ _ => 0
  | .seVxVy _ _ => 0
  | .ldVxByte _ _ => 0
  | .addVxByte _ _ => 0
  | .ldVxVy _ _ => 0
  | .orVxVy _ _ => 0
  | .andVxVy _ _ => 0
  | .xorVxVy _ _ => 0
  | .addVxVy _ _ => 0
  | .subVxVy _ _ => 0
  | .shrVx _ => 0
  | .subnVxVy _ _ => 0
  | .shlVx _ => 0
  | .sneVxVy _ _ => 0
  | .ldIAddr _ => 0
  | .jpV0Addr _ => 0
  | .rndVxByte _ _ => 0
  | .drwVxVyN _ _ _ => 0
  | .skpVx _ => 0
  | .sknpVx _ => 0
  | .ldVxDt _ => 0
  | .ldVxK _ => 0
  | .ldDtVx _ => 0
  | .ldStVx _ => 0
  | .addIVx _ => 0
  | .ldFVx _ => 0
  | .ldVxMem _ => 0

/-- How many bytes from `I` on an instruction touches, reading or storing (R201); the fetch is not counted. -/
def touchedBytes (i : Instr) : Nat :=
  match i with
  | .drwVxVyN _ _ n => n
  | .ldVxMem x => x.val + 1
  | i => storedBytes i

/-- The bits of its word an instruction's meaning depends on: all but the fields R333 lists as ignored. -/
def significantBits (strict : Bool) (i : Instr) : Word :=
  match strict, i with
  | false, .cls => 0xF00F
  | false, .ret => 0xF00F
  | false, .seVxVy _ _ => 0xFFF0
  | false, .sneVxVy _ _ => 0xFFF0
  | _, .shrVx _ => 0xFF0F
  | _, .shlVx _ => 0xFF0F
  | _, _ => 0xFFFF

/-- The instruction completes, register `x` then holds `b`, pc advances by 2, and nothing else changes. -/
def WritesRegOnly (i : Instr) (s : State) (x : RegIdx) (b : Byte) : Prop :=
  ∃ t, exec i s = .next t ∧ t = { s with v := t.v, pc := s.pc + 2 } ∧
    t.reg x = b ∧ ∀ r, r ≠ x → t.reg r = s.reg r

/-- The instruction completes, register `x` then holds `b`, VF holds `flag` unless `x` is VF (R530), pc advances by 2, and
nothing else changes. -/
def WritesRegAndFlag (i : Instr) (s : State) (x : RegIdx) (b flag : Byte) : Prop :=
  ∃ t, exec i s = .next t ∧ t = { s with v := t.v, pc := s.pc + 2 } ∧
    t.reg x = b ∧ (x ≠ 15 → t.reg 15 = flag) ∧ ∀ r, r ≠ x → r ≠ 15 → t.reg r = s.reg r

/-- The sprite's source bit that lands on screen pixel (`r`, `c`) when the sprite stands at (`sx`, `sy`): the closed form of the
loop of R700 (256 is a multiple of 64 and of 32, so the subtractions are those mod 64 and mod 32). -/
def spriteBit (sprite : List Byte) (sx sy : Byte) (r : Fin 32) (c : Fin 64) : Bool :=
  let col := (c.val + 256 - sx.toNat) % 64
  let row := (r.val + 256 - sy.toNat) % 32
  decide (col < 8) && (sprite[row]?.getD 0).getLsbD (7 - col)

end Sys2Proof.Machine
end

