-- ==== Sys2Proof/Certificates/Slice0/Obligations.lean ====
section
/-!
DEFINITION. The statements for the provers, one per obligation of OBLIGATIONS.json. `t = { s with f := t.f, … }` says that t is
s in every field but those named.
-/
section
open Sys2Proof Sys2Proof.Machine

/-! ## Decoding and encoding -/

/-- Decoding the word of a well-formed instruction gives the instruction back, under both settings (R320, R340). -/
def Obligations.DecodeOfEncodeIsIdentity : Prop :=
  ∀ (strict : Bool) (i : Instr), i.wellFormed = true → decode strict (encode i) = .instr i

/-- Whatever the decoder reads is well formed (R303, R340). -/
def Obligations.DecodedInstructionIsWellFormed : Prop :=
  ∀ (strict : Bool) (w : Word) (i : Instr), decode strict w = .instr i → i.wellFormed = true

/-- A decoded instruction fixes every bit of its word but those the spec calls ignored (R333; by P_DECODE_STRICT, D6). -/
def Obligations.DecodeDropsOnlyIgnoredBits : Prop :=
  ∀ (strict : Bool) (w : Word) (i : Instr), decode strict w = .instr i →
    encode i &&& significantBits strict i = w &&& significantBits strict i

/-- Decode gives the one row of the opcode map whose `w & mask = match`, with that row's operands; no row, no instruction
(R320). The rows' disjointness is what R320 marks as derived, and the strict masks (R321, R322) are the spec's own decision
D6. -/
def Obligations.DecodeFollowsOpcodeMap : Prop :=
  ∀ (strict : Bool) (w : Word),
    (∀ row ∈ opcodeMap, row.fits strict w = true → decode strict w = .instr (row.build w)) ∧
    ((∀ row ∈ opcodeMap, row.fits strict w = false) → decode strict w = .decodeError w) ∧
    (∀ (j k : Nat) (q r : OpcodeRow), opcodeMap[j]? = some q → opcodeMap[k]? = some r →
      q.fits strict w = true → r.fits strict w = true → j = k)

/-- The failing words of the spec's own derived list R332, family by family, under both settings (D6). -/
def Obligations.DecodeFailuresAreTheListedWords : Prop :=
  ∀ (strict : Bool) (w : Word), decode strict w = .decodeError w ↔
    (w.toNat / 4096 = 0x0 ∧ (if strict then w ≠ 0x00E0 ∧ w ≠ 0x00EE else w.toNat % 16 ≠ 0x0 ∧ w.toNat % 16 ≠ 0xE)) ∨
    (w.toNat / 4096 = 0x5 ∧ strict = true ∧ w.toNat % 16 ≠ 0) ∨
    (w.toNat / 4096 = 0x8 ∧ w.toNat % 16 ∈ [0x8, 0x9, 0xA, 0xB, 0xC, 0xD, 0xF]) ∨
    (w.toNat / 4096 = 0x9 ∧ strict = true ∧ w.toNat % 16 ≠ 0) ∨
    (w.toNat / 4096 = 0xE ∧ w.toNat % 256 ∉ [0x9E, 0xA1]) ∨
    (w.toNat / 4096 = 0xF ∧ w.toNat % 256 ∉ [0x07, 0x0A, 0x15, 0x18, 0x1E, 0x29, 0x33, 0x55, 0x65])

/-- The decode examples of R342, under every setting. -/
def Obligations.DecodeExamplesOfTheDocument : Prop :=
  ∀ strict : Bool,
    decode strict 0x00E0 = .instr .cls ∧ decode strict 0x1ABC = .instr (.jpAddr 0xABC) ∧
    decode strict 0xD123 = .instr (.drwVxVyN 1 2 3) ∧
    ∀ w : Word, w.toNat / 4096 = 0 → w.toNat % 16 ≠ 0 → w.toNat % 16 ≠ 0xE → decode strict w = .decodeError w

/-! ## The step -/

/-- R400: where the bytes at pc decode to an instruction, the step is that instruction's execution and nothing more. -/
def Obligations.StepRunsDecodedInstruction : Prop :=
  ∀ (s : State) (i : Instr), s.run = .running → s.pc.toNat + 1 ≤ 0xFFF →
    decode s.params.decodeStrict (wordOfBytes (s.readByte s.pc.toNat) (s.readByte (s.pc.toNat + 1))) = .instr i →
    step s = exec i s

/-- R202: the fetched word is `(M[pc] << 8) | M[pc+1]`, whatever instruction or state there is; that word is decoded. -/
def Obligations.FetchedWordIsBigEndian : Prop :=
  ∀ s : State, s.run = .running → s.pc.toNat + 1 ≤ 0xFFF →
    step s = match decode s.params.decodeStrict
        (((s.readByte s.pc.toNat).setWidth 16 <<< 8) ||| (s.readByte (s.pc.toNat + 1)).setWidth 16) with
      | .instr i => exec i s
      | .decodeError w => .fault (.decodeError w)

/-- The fetch at 0xFFF or above faults with OutOfBounds; that the bound is 0xFFE and the info is pc are the spec's own
decisions D25 and D18. -/
def Obligations.FetchAboveTheTopFaults : Prop :=
  ∀ s : State, s.run = .running → 0xFFF < s.pc.toNat + 1 → step s = .fault (.outOfBounds s.pc.toNat)

/-- R330: a fetched word that fits no row of the opcode map ends the run with DecodeError and that word, pc unchanged. -/
def Obligations.UnlistedWordIsFatal : Prop :=
  ∀ s : State, s.run = .running → s.pc.toNat + 1 ≤ 0xFFF →
    (∀ row ∈ opcodeMap, row.fits s.params.decodeStrict (s.readWord s.pc.toNat) = false) →
    step s = .fault (.decodeError (s.readWord s.pc.toNat)) ∧
    (s.apply .step) = { s with run := .faulted (.decodeError (s.readWord s.pc.toNat)) }

/-- A faulting step writes Run alone and is reported once with its code and info: the spec's own decisions D17 and D18
(60_exceptions.md section 1). After it no event of the host changes the block: its decision D26 (section 2, R911). -/
def Obligations.FaultWritesOnlyRunAndIsFinal : Prop :=
  ∀ (s : State) (f : Fault), step s = .fault f →
    s.apply .step = { s with run := .faulted f } ∧
    s.haltOut .step = some (faultCode f, faultInfo f) ∧
    (∀ es, (s.apply .step).applyAll es = s.apply .step) ∧
    ∀ e, (s.apply .step).haltOut e = none

/-- Once Run has left Running no event changes any state (the spec's own decision D26), and no step is taken: the model says so
by refusing (log 6). -/
def Obligations.EndedRunChangesNothing : Prop :=
  ∀ s : State, s.run ≠ .running → step s = .refused .runEnded ∧ ∀ es, s.applyAll es = s

/-- The instruction placed by withFetchWord is the one the next step runs (the model's placing of a word, log 7). -/
def Obligations.PlacedWordIsRunNext : Prop :=
  ∀ (s : State) (w : Nat) (i : Instr), s.run = .running → s.pc.toNat + 1 ≤ 0xFFF →
    s.params.decodeStrict = Config.defaults.decodeStrict → decodeTableWord 16 w = some i →
    step (s.withFetchWord 16 w) = exec i (s.withFetchWord 16 w)

/-! ## Host events -/

/-- R960: terminate ends a run cleanly, whatever the block is doing, writing Run alone; it is no fault. -/
def Obligations.TerminateStopsCleanly : Prop :=
  ∀ s : State, s.run = .running →
    s.apply .terminate = { s with run := .terminated } ∧ s.haltOut .terminate = none

/-- R141: a tick decrements both timers, saturating at 0, and writes nothing else; no instruction decrements a timer: each
keeps it or sets it to a register's value. -/
def Obligations.TickDecrementsSaturating : Prop :=
  (∀ s : State, s.run = .running →
    s.apply .tick = { s with dt := (s.apply .tick).dt, st := (s.apply .tick).st } ∧
    (s.apply .tick).dt.toNat = (if 0 < s.dt.toNat then s.dt.toNat - 1 else 0) ∧
    (s.apply .tick).st.toNat = (if 0 < s.st.toNat then s.st.toNat - 1 else 0)) ∧
  ∀ (i : Instr) (s t : State), exec i s = .next t →
    (t.dt = s.dt ∨ ∃ x, i = .ldDtVx x ∧ t.dt = s.reg x) ∧ (t.st = s.st ∨ ∃ x, i = .ldStVx x ∧ t.st = s.reg x)

/-- A snapshot replaces the whole key state and writes nothing else: the spec's own decision D24. -/
def Obligations.KeySnapshotReplacesKeyState : Prop :=
  ∀ (s : State) (keys : Vector Bool 16) (last : Option KeyIdx), s.run = .running →
    s.apply (.keysIn keys last) = { s with keys := keys, lastPressed := last }

/-! ## Reset -/

/-- Every piece of state after reset with a program image, under every parameter setting. pc, FB and the placing of font and
program are the document's; the zeros are the spec's own decision D15, Run is D17. -/
def Obligations.ResetLeavesTheListedValues : Prop :=
  ∀ (p : Params) (image : List Byte), let s := State.construct p image
    s.pc = 0x200 ∧ (∀ x, s.reg x = 0) ∧ s.i = 0 ∧ s.sp.val = 0 ∧ (∀ k : Fin 16, s.stack[k] = 0) ∧
    (∀ (d : Fin 16) (r : Fin 5), s.readByte (d.val * 5 + r.val) = p.fontTable[d][r]) ∧
    (∀ a, 80 ≤ a → a < 0x200 → s.readByte a = 0) ∧
    (∀ k, k < 3584 → s.readByte (0x200 + k) = image[k]?.getD 0) ∧
    (∀ r c, s.fb.pixel r c = false) ∧ s.dt = 0 ∧ s.st = 0 ∧ (∀ k : Fin 16, s.keys[k] = false) ∧
    s.lastPressed = none ∧ s.run = .running

/-- The glyphs stand at 0..79 whatever the image is; under the default parameters their bytes are the standard font's, the
spec's own decision D16 from general knowledge (log 2). -/
def Obligations.ResetFontIsTheStandardTable : Prop :=
  ∀ image : List Byte, let s := State.construct Config.defaults image
    (List.range 40).map s.readByte =
      [0xF0, 0x90, 0x90, 0x90, 0xF0] ++ [0x20, 0x60, 0x20, 0x20, 0x70] ++ [0xF0, 0x10, 0xF0, 0x80, 0xF0] ++
      [0xF0, 0x10, 0xF0, 0x10, 0xF0] ++ [0x90, 0x90, 0xF0, 0x10, 0x10] ++ [0xF0, 0x80, 0xF0, 0x10, 0xF0] ++
      [0xF0, 0x80, 0xF0, 0x90, 0xF0] ++ [0xF0, 0x10, 0x20, 0x40, 0x40] ∧
    (List.range 40).map (fun k => s.readByte (40 + k)) =
      [0xF0, 0x90, 0xF0, 0x90, 0xF0] ++ [0xF0, 0x90, 0xF0, 0x10, 0xF0] ++ [0xF0, 0x90, 0xF0, 0x90, 0x90] ++
      [0xE0, 0x90, 0xE0, 0x90, 0xE0] ++ [0xF0, 0x80, 0x80, 0x80, 0xF0] ++ [0xE0, 0x90, 0x90, 0x90, 0xE0] ++
      [0xF0, 0x80, 0xF0, 0x80, 0xF0] ++ [0xF0, 0x80, 0xF0, 0x80, 0x80]

/-- With an empty image the first step is CLS by default, which leaves the reset state but for pc and the blank grid it emits
(listed in the model's own field, log 5), and a decode failure when strict: an inference the spec marks as its own (R1003's
last sentence), resting on D15 and D6. -/
def Obligations.EmptyImageFirstStep : Prop :=
  ∀ p : Params,
    (p.decodeStrict = false →
      step (State.construct p []) = exec .cls (State.construct p []) ∧
      step (State.construct p []) =
        .next { State.construct p [] with pc := 0x202, displayOut := [Framebuffer.blank] }) ∧
    (p.decodeStrict = true → step (State.construct p []) = .fault (.decodeError 0))

/-! ## The invariant -/

/-- Every step keeps the invariant, from every state that meets it. Its bound on pc rests on the spec's own decision D19; that
memory is a canonical list and that the emitted grids are listed are the model's choices (logs 3 and 5). -/
def Obligations.StepKeepsTheMachineInvariant : Prop :=
  ∀ s t : State, Inv s → step s = .next t → Inv t

/-- Every host event keeps the invariant, so every reachable state meets it, whatever the parameters, the image and the
order of events (free order: the spec's own decision D26). -/
def Obligations.EventsKeepTheMachineInvariant : Prop :=
  (∀ (s : State) (e : HostEvent), Inv s → Inv (s.apply e)) ∧
  ∀ (p : Params) (image : List Byte) (es : List HostEvent), Inv ((State.construct p image).applyAll es)

/-- The state after reset meets the invariant. -/
def Obligations.ResetMeetsTheMachineInvariant : Prop := Inv State.reset

/-! ## What an execution leaves unchanged, over all instructions -/

/-- R102, R103: a register changes only if it is a listed destination, or VF of a listed flag writer. -/
def Obligations.OnlyListedRegistersChange : Prop :=
  ∀ (i : Instr) (s t : State) (r : RegIdx), exec i s = .next t → writesReg s.params i r = false → t.reg r = s.reg r

/-- R201: every byte of memory outside the bytes an instruction stores reads as before; the stored bytes are the
`storedBytes i` bytes from I on. -/
def Obligations.MemoryChangesOnlyWhereStored : Prop :=
  ∀ (i : Instr) (s t : State), exec i s = .next t →
    ∀ a, (a < s.i.toNat ∨ s.i.toNat + storedBytes i ≤ a) → t.readByte a = s.readByte a

/-- R123: only CALL and RET read or write SP and the slots. For any other instruction they are kept, and other values in
them change nothing else of its outcome. -/
def Obligations.OnlyCallAndRetUseTheStack : Prop :=
  ∀ (i : Instr) (s : State) (sp : Fin 17) (stack : Vector Word 16), i ≠ .ret → (∀ nnn, i ≠ .callAddr nnn) →
    match exec i s with
    | .next t => t.sp = s.sp ∧ t.stack = s.stack ∧
        exec i { s with sp := sp, stack := stack } = .next { t with sp := sp, stack := stack }
    | .fault f => exec i { s with sp := sp, stack := stack } = .fault f
    | .refused r => exec i { s with sp := sp, stack := stack } = .refused r

/-- Each CLS and each DRW that does not fault emits the full new grid (R131; the faulting DRW: the spec's own decision D27).
What has been emitted is listed in displayOut, a field of the model's own (log 5): that no other instruction adds to it and
that the list has no effect on the block rest on that entry. -/
def Obligations.DisplayUpdateAfterClearAndDraw : Prop :=
  ∀ (i : Instr) (s t : State) (out : List Framebuffer), exec i s = .next t →
    ((i = .cls ∨ ∃ x y n, i = .drwVxVyN x y n) → t.displayOut = t.fb :: s.displayOut) ∧
    ((i ≠ .cls ∧ ∀ x y n, i ≠ .drwVxVyN x y n) → t.displayOut = s.displayOut) ∧
    ∃ u, exec i { s with displayOut := out } = .next u ∧ u = { t with displayOut := u.displayOut }

/-- Every field is written only by the instructions the spec names for it: I by LD I, ADD I, LD F (R106); the grid by CLS and
DRW (R130); DT and ST by their loads (R140); LastPressed by LD Vx, K (R150); the key flags, Run and the parameters by none; the model's count of draws by RND (log 4). -/
def Obligations.FieldsChangeOnlyByTheirInstructions : Prop :=
  ∀ (i : Instr) (s t : State), exec i s = .next t →
    ((∀ nnn, i ≠ .ldIAddr nnn) → (∀ x, i ≠ .addIVx x) → (∀ x, i ≠ .ldFVx x) → t.i = s.i) ∧
    (i ≠ .cls → (∀ x y n, i ≠ .drwVxVyN x y n) → t.fb = s.fb) ∧
    ((∀ x, i ≠ .ldDtVx x) → t.dt = s.dt) ∧ ((∀ x, i ≠ .ldStVx x) → t.st = s.st) ∧
    ((∀ x, i ≠ .ldVxK x) → t.lastPressed = s.lastPressed) ∧
    ((∀ x kk, i ≠ .rndVxByte x kk) → t.draws = s.draws) ∧
    t.keys = s.keys ∧ t.run = s.run ∧ t.params = s.params

/-- Where pc goes, instruction by instruction: the spec's own table R404, derived from the instruction rules; the targets are
those of R410 to R413 (the unmasked JP V0 is its decision D19), the skip conditions those of R450 to R461 (a key number above
15 is its decision D12), the stall of LD Vx, K is its decision D13. -/
def Obligations.PcFollowsTheDispositionTable : Prop :=
  ∀ (i : Instr) (s t : State), exec i s = .next t →
    match i with
    | .jpAddr nnn => t.pc = nnn
    | .callAddr nnn => t.pc = nnn
    | .jpV0Addr nnn => t.pc = nnn + (s.reg 0).setWidth 16
    | .ret => ∀ k : Fin 16, k.val + 1 = s.sp.val → t.pc = s.stack[k]
    | .seVxByte x kk => t.pc = if s.reg x = kk then s.pc + 4 else s.pc + 2
    | .sneVxByte x kk => t.pc = if s.reg x ≠ kk then s.pc + 4 else s.pc + 2
    | .seVxVy x y => t.pc = if s.reg x = s.reg y then s.pc + 4 else s.pc + 2
    | .sneVxVy x y => t.pc = if s.reg x ≠ s.reg y then s.pc + 4 else s.pc + 2
    | .skpVx x => t.pc = if (∃ k : Fin 16, k.val = (s.reg x).toNat ∧ s.keys[k] = true) then s.pc + 4 else s.pc + 2
    | .sknpVx x => t.pc = if (∃ k : Fin 16, k.val = (s.reg x).toNat ∧ s.keys[k] = true) then s.pc + 2 else s.pc + 4
    | .ldVxK _ => t.pc = if s.lastPressed = none then s.pc else s.pc + 2
    | _ => t.pc = s.pc + 2

/-- Every instruction is always available (R930): none is ever refused. -/
def Obligations.ExecutionNeverRefuses : Prop :=
  ∀ (i : Instr) (s : State) (r : Refusal), exec i s ≠ .refused r

/-- An instruction raises only the fault listed for it, only in the case listed, with the info listed (the table of R901; the
info values are the spec's own decision D18, OperandOutOfRange is D11 and D12; a full stack is `depth ≤ SP`, log 8). -/
def Obligations.FaultCausesAreTheListedOnes : Prop :=
  ∀ (i : Instr) (s : State) (f : Fault), exec i s = .fault f →
    ((∃ nnn, i = .callAddr nnn) ∧ s.params.stackDepth.toNat ≤ s.sp.val ∧ f = .stackOverflow s.pc) ∨
    (i = .ret ∧ s.sp.val = 0 ∧ f = .stackUnderflow s.pc) ∨
    (0 < touchedBytes i ∧ 0xFFF < s.i.toNat + touchedBytes i - 1 ∧ f = .outOfBounds (max s.i.toNat 0x1000)) ∨
    (∃ x, (i = .skpVx x ∨ i = .sknpVx x) ∧ 15 < (s.reg x).toNat ∧ s.params.keyOor = .fault ∧
      f = .operandOutOfRange (s.reg x)) ∨
    (∃ x, i = .ldFVx x ∧ 15 < (s.reg x).toNat ∧ s.params.fontOor = .fault ∧ f = .operandOutOfRange (s.reg x))

/-- If any address an instruction touches is above 0xFFF it raises OutOfBounds, its info the lowest such address, and writes
nothing but Run: the spec's own decision D22. -/
def Obligations.OutOfBoundsNamesTheLowestAddress : Prop :=
  ∀ (i : Instr) (s : State), (∃ k < touchedBytes i, 0xFFF < s.i.toNat + k) →
    ∃ a, exec i s = .fault (.outOfBounds a) ∧ 0xFFF < a ∧ (∃ k < touchedBytes i, a = s.i.toNat + k) ∧
      (∀ k < touchedBytes i, 0xFFF < s.i.toNat + k → a ≤ s.i.toNat + k) ∧
      s.settle (exec i s) = { s with run := .faulted (.outOfBounds a) }

/-! ## Control transfers -/

/-- JP and JP V0 complete in every state and change pc alone; that JP V0's sum is not reduced to 12 bits is the spec's own
decision D19. -/
def Obligations.JumpsSetPcAlone : Prop :=
  ∀ (nnn : Word) (s : State), addrFits nnn = true →
    exec (.jpAddr nnn) s = .next { s with pc := nnn } ∧
    ∃ t, exec (.jpV0Addr nnn) s = .next t ∧ t = { s with pc := t.pc } ∧
      t.pc.toNat = nnn.toNat + (s.reg 0).toNat

/-- CALL on a stack that is not full pushes pc + 2 and jumps; on a full stack (P_STACK_DEPTH entries, D8) it raises
StackOverflow (R411, R121). -/
def Obligations.CallPushesTheReturnAddress : Prop :=
  ∀ (nnn : Word) (s : State),
    (s.sp.val < s.params.stackDepth.toNat →
      ∃ t, exec (.callAddr nnn) s = .next t ∧ t = { s with pc := nnn, sp := t.sp, stack := t.stack } ∧
        t.sp.val = s.sp.val + 1 ∧
        ∀ k : Fin 16, t.stack[k] = if k.val = s.sp.val then s.pc + 2 else s.stack[k]) ∧
    (s.sp.val = s.params.stackDepth.toNat → exec (.callAddr nnn) s = .fault (.stackOverflow s.pc))

/-- RET on a stack that is not empty pops into pc; on an empty stack it raises StackUnderflow (R410, R122). -/
def Obligations.RetPopsIntoPc : Prop :=
  ∀ s : State,
    (∀ k : Fin 16, k.val + 1 = s.sp.val →
      ∃ t, exec .ret s = .next t ∧ t = { s with pc := s.stack[k], sp := t.sp } ∧ t.sp.val = k.val) ∧
    (s.sp.val = 0 → exec .ret s = .fault (.stackUnderflow s.pc))

/-- RET after CALL from p restores p + 2, the stack pointer, and all else but the slot that was used. -/
def Obligations.RetAfterCallReturns : Prop :=
  ∀ (nnn : Word) (s : State), s.sp.val < s.params.stackDepth.toNat →
    ∃ t u, exec (.callAddr nnn) s = .next t ∧ exec .ret t = .next u ∧
      u = { s with pc := s.pc + 2, stack := u.stack } ∧ ∀ k : Fin 16, k.val ≠ s.sp.val → u.stack[k] = s.stack[k]

/-- A word stored over the next instruction's bytes is what the next step decodes and runs: R223, which the spec marks as
derived. -/
def Obligations.StoreIsSeenByTheNextFetch : Prop :=
  ∀ (x a b : RegIdx) (s : State) (j : Instr), s.run = .running → s.i.toNat + x.val ≤ 0xFFF → b ≤ x →
    b.val = a.val + 1 → s.pc.toNat + 2 = s.i.toNat + a.val →
    decode s.params.decodeStrict (wordOfBytes (s.reg a) (s.reg b)) = .instr j →
    ∃ t, exec (.ldMemVx x) s = .next t ∧ step t = exec j t

/-! ## Skips -/

/-- The four comparing skips complete in every state and change pc alone (R450 to R453). -/
def Obligations.ComparingSkipsMovePcAlone : Prop :=
  ∀ (x y : RegIdx) (kk : Byte) (s : State),
    exec (.seVxByte x kk) s =
      .next { s with pc := if (s.reg x).toNat = kk.toNat then s.pc + 4 else s.pc + 2 } ∧
    exec (.sneVxByte x kk) s =
      .next { s with pc := if (s.reg x).toNat = kk.toNat then s.pc + 2 else s.pc + 4 } ∧
    exec (.seVxVy x y) s =
      .next { s with pc := if (s.reg x).toNat = (s.reg y).toNat then s.pc + 4 else s.pc + 2 } ∧
    exec (.sneVxVy x y) s =
      .next { s with pc := if (s.reg x).toNat = (s.reg y).toNat then s.pc + 2 else s.pc + 4 }

/-- SKP and SKNP test the current key flag of Vx (R460, R461); above 15 they fault or count the key as not pressed, by the
parameter of the spec's own decision D12. -/
def Obligations.KeySkipsReadTheSnapshot : Prop :=
  ∀ (x : RegIdx) (s : State),
    (∀ k : Fin 16, (s.reg x).toNat = k.val →
      exec (.skpVx x) s = .next { s with pc := if s.keys[k] = true then s.pc + 4 else s.pc + 2 } ∧
      exec (.sknpVx x) s = .next { s with pc := if s.keys[k] = true then s.pc + 2 else s.pc + 4 }) ∧
    (15 < (s.reg x).toNat → s.params.keyOor = .fault →
      exec (.skpVx x) s = .fault (.operandOutOfRange (s.reg x)) ∧
      exec (.sknpVx x) s = .fault (.operandOutOfRange (s.reg x))) ∧
    (15 < (s.reg x).toNat → s.params.keyOor = .notPressed →
      exec (.skpVx x) s = .next { s with pc := s.pc + 2 } ∧ exec (.sknpVx x) s = .next { s with pc := s.pc + 4 })

/-! ## The ALU -/

/-- The loads of a register from an immediate, a register and the delay timer (R500, R510, R800). -/
def Obligations.RegisterLoadsWriteTheirTarget : Prop :=
  ∀ (x y : RegIdx) (kk : Byte) (s : State),
    WritesRegOnly (.ldVxByte x kk) s x kk ∧ WritesRegOnly (.ldVxVy x y) s x (s.reg y) ∧
    WritesRegOnly (.ldVxDt x) s x s.dt

/-- ADD byte wraps mod 256; OR, AND, XOR are bitwise (R501, R511 to R513); that none of them writes a flag is the spec's own
decision D20. -/
def Obligations.FlaglessAluOpsWriteTheirTarget : Prop :=
  ∀ (x y : RegIdx) (kk : Byte) (s : State),
    WritesRegOnly (.addVxByte x kk) s x (BitVec.ofNat 8 (((s.reg x).toNat + kk.toNat) % 256)) ∧
    WritesRegOnly (.orVxVy x y) s x (BitVec.ofNat 8 ((s.reg x).toNat ||| (s.reg y).toNat)) ∧
    WritesRegOnly (.andVxVy x y) s x (BitVec.ofNat 8 ((s.reg x).toNat &&& (s.reg y).toNat)) ∧
    WritesRegOnly (.xorVxVy x y) s x (BitVec.ofNat 8 ((s.reg x).toNat ^^^ (s.reg y).toNat))

/-- ADD Vx, Vy: the sum mod 256, and VF = 1 iff it exceeds 255 (R520); with VF as the target the result remains, the spec's
own decision D3. -/
def Obligations.AddSetsCarry : Prop :=
  ∀ (x y : RegIdx) (s : State),
    WritesRegAndFlag (.addVxVy x y) s x (BitVec.ofNat 8 (((s.reg x).toNat + (s.reg y).toNat) % 256))
      (if 255 < (s.reg x).toNat + (s.reg y).toNat then 1 else 0)

/-- SUB and SUBN: the difference mod 256, and VF = 1 iff the minuend is the greater (R521, R523; at equality the spec's own
decisions D29 and D21; the target VF: D3). -/
def Obligations.SubtractionsSetNoBorrow : Prop :=
  ∀ (x y : RegIdx) (s : State),
    WritesRegAndFlag (.subVxVy x y) s x (BitVec.ofNat 8 (((s.reg x).toNat + 256 - (s.reg y).toNat) % 256))
      (if (s.reg y).toNat < (s.reg x).toNat then 1 else 0) ∧
    WritesRegAndFlag (.subnVxVy x y) s x (BitVec.ofNat 8 (((s.reg y).toNat + 256 - (s.reg x).toNat) % 256))
      (if (s.reg x).toNat < (s.reg y).toNat then 1 else 0)

/-- SHR and SHL shift Vx by one, and VF is the bit shifted out (R522, R524; the target VF: the spec's own decision D3). -/
def Obligations.ShiftsSetTheBitShiftedOut : Prop :=
  ∀ (x : RegIdx) (s : State),
    WritesRegAndFlag (.shrVx x) s x (BitVec.ofNat 8 ((s.reg x).toNat / 2)) (BitVec.ofNat 8 ((s.reg x).toNat % 2)) ∧
    WritesRegAndFlag (.shlVx x) s x (BitVec.ofNat 8 ((s.reg x).toNat * 2 % 256)) (BitVec.ofNat 8 ((s.reg x).toNat / 128))

/-- When the destination is VF the result, of the values read before either write, is what remains in it: the spec's own
decision D3 (42_alu.md R530). -/
def Obligations.ResultWinsWhenTheTargetIsTheFlag : Prop :=
  ∀ (y : RegIdx) (s : State), let a := (s.reg 15).toNat; let b := (s.reg y).toNat
    ∃ t1 t2 t3 t4 t5,
      exec (.addVxVy 15 y) s = .next t1 ∧ (t1.reg 15).toNat = (a + b) % 256 ∧
      exec (.subVxVy 15 y) s = .next t2 ∧ (t2.reg 15).toNat = (a + 256 - b) % 256 ∧
      exec (.shrVx 15) s = .next t3 ∧ (t3.reg 15).toNat = a / 2 ∧
      exec (.subnVxVy 15 y) s = .next t4 ∧ (t4.reg 15).toNat = (b + 256 - a) % 256 ∧
      exec (.shlVx 15) s = .next t5 ∧ (t5.reg 15).toNat = a * 2 % 256

/-- RND: a byte the environment chooses, masked; the next draw is another one (R560, the spec's own decision D14).
Config.randomByte is the model's free value and draws its counter (log 4): the statement holds for every value of both. -/
def Obligations.RandomByteIsMasked : Prop :=
  ∀ (x : RegIdx) (kk : Byte) (s : State),
    ∃ t, exec (.rndVxByte x kk) s = .next t ∧
      t = { s with v := t.v, pc := s.pc + 2, draws := s.draws + 1 } ∧
      t.reg x = Config.randomByte s.draws &&& kk ∧ (kk = 0 → t.reg x = 0) ∧
      (kk = 0xFF → t.reg x = Config.randomByte s.draws) ∧ ∀ r, r ≠ x → t.reg r = s.reg r

/-! ## The address register and memory -/

/-- LD I, and ADD I mod 2^16 unmasked (the spec's own decision D5) with VF by P_ADD_I_VF (D4) (R600, R610). -/
def Obligations.AddressRegisterIsLoadedAndAdded : Prop :=
  ∀ (x : RegIdx) (nnn : Word) (s : State),
    exec (.ldIAddr nnn) s = .next { s with i := nnn, pc := s.pc + 2 } ∧
    ∃ t, exec (.addIVx x) s = .next t ∧ t = { s with v := t.v, i := t.i, pc := s.pc + 2 } ∧
      t.i.toNat = (s.i.toNat + (s.reg x).toNat) % 65536 ∧ (∀ r, r ≠ 15 → t.reg r = s.reg r) ∧
      (s.params.addIVf = .unchanged → t.reg 15 = s.reg 15) ∧
      (s.params.addIVf = .overflow → t.reg 15 = if 0xFFF < s.i.toNat + (s.reg x).toNat then 1 else 0)

/-- LD F points I at the glyph of a digit (R620); above 15 it faults or keeps I, by the parameter of the spec's own decision
D11. -/
def Obligations.FontAddressOfADigit : Prop :=
  ∀ (x : RegIdx) (s : State),
    ((s.reg x).toNat ≤ 15 →
      ∃ t, exec (.ldFVx x) s = .next t ∧ t = { s with i := t.i, pc := s.pc + 2 } ∧
        t.i.toNat = 5 * (s.reg x).toNat) ∧
    (15 < (s.reg x).toNat → s.params.fontOor = .fault →
      exec (.ldFVx x) s = .fault (.operandOutOfRange (s.reg x))) ∧
    (15 < (s.reg x).toNat → s.params.fontOor = .unchanged → exec (.ldFVx x) s = .next { s with pc := s.pc + 2 })

/-- LD B stores the three decimal digits of Vx at I, I+1, I+2 and changes nothing else (R630). -/
def Obligations.DecimalDigitsAreStored : Prop :=
  ∀ (x : RegIdx) (s : State), s.i.toNat + 2 ≤ 0xFFF →
    ∃ t, exec (.ldBVx x) s = .next t ∧ t = { s with mem := t.mem, pc := s.pc + 2 } ∧
      (t.readByte s.i.toNat).toNat = (s.reg x).toNat / 100 ∧
      (t.readByte (s.i.toNat + 1)).toNat = (s.reg x).toNat / 10 % 10 ∧
      (t.readByte (s.i.toNat + 2)).toNat = (s.reg x).toNat % 10 ∧
      ∀ a, (a < s.i.toNat ∨ s.i.toNat + 3 ≤ a) → t.readByte a = s.readByte a

/-- LD [I], Vx stores V0 to Vx from I on and changes nothing else (R640). -/
def Obligations.RegistersAreStored : Prop :=
  ∀ (x : RegIdx) (s : State), s.i.toNat + x.val ≤ 0xFFF →
    ∃ t, exec (.ldMemVx x) s = .next t ∧ t = { s with mem := t.mem, pc := s.pc + 2 } ∧
      (∀ r, r ≤ x → t.readByte (s.i.toNat + r.val) = s.reg r) ∧
      ∀ a, (a < s.i.toNat ∨ s.i.toNat + x.val + 1 ≤ a) → t.readByte a = s.readByte a

/-- LD Vx, [I] loads V0 to Vx from I on and changes nothing else (R641). -/
def Obligations.RegistersAreLoaded : Prop :=
  ∀ (x : RegIdx) (s : State), s.i.toNat + x.val ≤ 0xFFF →
    ∃ t, exec (.ldVxMem x) s = .next t ∧ t = { s with v := t.v, pc := s.pc + 2 } ∧
      (∀ r, r ≤ x → t.reg r = s.readByte (s.i.toNat + r.val)) ∧ ∀ r, x < r → t.reg r = s.reg r

/-- A store of V0 to Vx and a load with the same I and x give the registers back, whatever they held in between. -/
def Obligations.StoreThenLoadRestoresRegisters : Prop :=
  ∀ (x : RegIdx) (s : State), s.i.toNat + x.val ≤ 0xFFF →
    ∃ t, exec (.ldMemVx x) s = .next t ∧ ∀ v : Vector Byte 16,
      ∃ u, exec (.ldVxMem x) { t with v := v } = .next u ∧ u.i = s.i ∧ ∀ r, r ≤ x → u.reg r = s.reg r

/-! ## The display -/

/-- CLS clears every pixel, emits the grid, and changes nothing else, VF included (R710). -/
def Obligations.ClearScreenClearsEveryPixel : Prop :=
  ∀ s : State, ∃ t, exec .cls s = .next t ∧
    t = { s with fb := t.fb, displayOut := t.fb :: s.displayOut, pc := s.pc + 2 } ∧ ∀ r c, t.fb.pixel r c = false

/-- DRW XORs the sprite of n bytes from I on into the grid at (Vx, Vy), all read before any write, sets VF to whether a set
pixel was met (the spec's own decision D10), emits the grid, and changes nothing else; with n = 0 it draws nothing whatever I
is (D9) (R720). -/
def Obligations.DrawInstructionBlitsTheSprite : Prop :=
  ∀ (x y : RegIdx) (n : Nat) (s : State), nibbleFits n = true → (n = 0 ∨ s.i.toNat + n - 1 ≤ 0xFFF) →
    let sprite := (List.range n).map fun k => s.readByte (s.i.toNat + k)
    ∃ t, exec (.drwVxVyN x y n) s = .next t ∧
      t = { s with v := t.v, fb := t.fb, displayOut := t.fb :: s.displayOut, pc := s.pc + 2 } ∧
      (∀ r c, t.fb.pixel r c = (s.fb.pixel r c ^^ spriteBit sprite (s.reg x) (s.reg y) r c)) ∧
      ((∃ r c, spriteBit sprite (s.reg x) (s.reg y) r c = true ∧ s.fb.pixel r c = true) → t.reg 15 = 1) ∧
      ((∀ r c, spriteBit sprite (s.reg x) (s.reg y) r c = true → s.fb.pixel r c = false) → t.reg 15 = 0) ∧
      (∀ r, r ≠ 15 → t.reg r = s.reg r) ∧ (n = 0 → t.fb = s.fb ∧ t.reg 15 = 0)

/-- R700, R702: source bit c (MSB first) of sprite row r is XORed into the pixel at row (sy + r) mod 32, column (sx + c) mod 64;
every other pixel stays; collided iff some source bit 1 met a pixel 1. -/
def Obligations.DrawWrapsAndXorsEachBit : Prop :=
  ∀ (fb : Framebuffer) (sprite : List Byte) (sx sy : Byte), sprite.length ≤ 15 →
    let z := draw fb sprite sx sy
    let row := fun r : Nat => Fin.ofNat 32 (sy.toNat + r)
    let col := fun c : Nat => Fin.ofNat 64 (sx.toNat + c)
    (∀ (r c : Nat) (b : Byte), sprite[r]? = some b → c < 8 →
      z.fb.pixel (row r) (col c) = (fb.pixel (row r) (col c) ^^ b.getLsbD (7 - c))) ∧
    (∀ q d, (∀ r c, r < sprite.length → c < 8 → ¬ (q = row r ∧ d = col c)) → z.fb.pixel q d = fb.pixel q d) ∧
    (z.collided = true ↔ ∃ (r c : Nat) (b : Byte), sprite[r]? = some b ∧ c < 8 ∧ b.getLsbD (7 - c) = true ∧
      fb.pixel (row r) (col c) = true)

/-- R701: a collision is reported iff some pixel went from 1 to 0 in the call. -/
def Obligations.CollisionIffAPixelWasErased : Prop :=
  ∀ (fb : Framebuffer) (sprite : List Byte) (sx sy : Byte), sprite.length ≤ 15 →
    ((draw fb sprite sx sy).collided = true ↔
      ∃ r c, fb.pixel r c = true ∧ (draw fb sprite sx sy).fb.pixel r c = false)

/-- Draw is its own inverse on FB (R704's first sentence). The second call collides iff the first set some pixel, so on a blank
grid iff the sprite has a 1 bit: this follows R700 and R701 and departs from R704's second sentence, by log 11 (DEDUCED). -/
def Obligations.DrawingTwiceRestoresTheGrid : Prop :=
  ∀ (fb : Framebuffer) (sprite : List Byte) (sx sy : Byte), sprite.length ≤ 15 →
    let once := draw fb sprite sx sy
    let twice := draw once.fb sprite sx sy
    twice.fb = fb ∧
    (twice.collided = true ↔ ∃ r c, fb.pixel r c = false ∧ once.fb.pixel r c = true) ∧
    (fb = Framebuffer.blank → (twice.collided = true ↔ ∃ b ∈ sprite, b ≠ 0))

/-- R704's second sentence, as it stands: on ANY grid the second call collides iff the sprite has a 1 bit. It is expected to
FAIL of R700's own algorithm (log 11): where the first call only erased, the second meets no set pixel. -/
def Obligations.SecondDrawCollidesOnAnyGrid : Prop :=
  ∀ (fb : Framebuffer) (sprite : List Byte) (sx sy : Byte), sprite.length ≤ 15 →
    ((draw (draw fb sprite sx sy).fb sprite sx sy).collided = true ↔ ∃ b ∈ sprite, b ≠ 0)

/-- What R700 and R701 leave of R704's second sentence on every grid (log 11, DEDUCED): the sprite has a 1 bit iff one of the two
calls collides, so where the first call erased nothing the second collides iff the sprite has a 1 bit. -/
def Obligations.SecondDrawCollidesWhereTheFirstDidNot : Prop :=
  ∀ (fb : Framebuffer) (sprite : List Byte) (sx sy : Byte), sprite.length ≤ 15 →
    let once := draw fb sprite sx sy
    let twice := draw once.fb sprite sx sy
    ((once.collided = true ∨ twice.collided = true) ↔ ∃ b ∈ sprite, b ≠ 0) ∧
    (once.collided = false → (twice.collided = true ↔ ∃ b ∈ sprite, b ≠ 0))

/-! ## Timers and the key wait -/

/-- LD DT and LD ST set their timer alone; sound_out is ST > 0 at once (R801, R802, R142). -/
def Obligations.TimerLoadsSetTheTimerAlone : Prop :=
  ∀ (x : RegIdx) (s : State),
    exec (.ldDtVx x) s = .next { s with dt := s.reg x, pc := s.pc + 2 } ∧
    ∃ t, exec (.ldStVx x) s = .next t ∧ t = { s with st := s.reg x, pc := s.pc + 2 } ∧
      (t.soundOut = true ↔ s.reg x ≠ 0)

/-- LD Vx, K consumes a recorded press; without one it stalls and the whole state stays (R810, the spec's own decision D13). -/
def Obligations.KeyWaitConsumesAPressOrStalls : Prop :=
  ∀ (x : RegIdx) (s : State),
    (∀ k : KeyIdx, s.lastPressed = some k →
      ∃ t, exec (.ldVxK x) s = .next t ∧ t = { s with v := t.v, lastPressed := none, pc := s.pc + 2 } ∧
        (t.reg x).toNat = k.val ∧ ∀ r, r ≠ x → t.reg r = s.reg r) ∧
    (s.lastPressed = none → exec (.ldVxK x) s = .next s)

end
end

