-- ==== Sys2Proof/Laws/Decode.lean ====
section
/-!
SUPPORT. The fields of a word as numbers, and the fields of a packed word (spec/30_encoding.md R301, R302).
-/
namespace Sys2Proof

/-! ## Words as numbers -/

theorem toNat_append_add {n m : Nat} (a : BitVec n) (b : BitVec m) : (a ++ b).toNat = a.toNat * 2 ^ m + b.toNat := by
  rw [BitVec.toNat_append, ← Nat.shiftLeft_add_eq_or_of_lt b.isLt, Nat.shiftLeft_eq]

theorem toNat_packXYN (op : BitVec 4) (x y : RegIdx) (n : BitVec 4) :
    (packXYN op x y n).toNat = op.toNat * 4096 + x.val * 256 + y.val * 16 + n.toNat := by
  refine (toNat_append_add (op ++ (BitVec.ofFin x : BitVec 4) ++ (BitVec.ofFin y : BitVec 4)) n).trans ?_
  rw [toNat_append_add, toNat_append_add]
  simp only [BitVec.toNat_ofFin]
  omega

theorem toNat_packXKk (op : BitVec 4) (x : RegIdx) (kk : Byte) :
    (packXKk op x kk).toNat = op.toNat * 4096 + x.val * 256 + kk.toNat := by
  refine (toNat_append_add (op ++ (BitVec.ofFin x : BitVec 4)) kk).trans ?_
  rw [toNat_append_add]
  simp only [BitVec.toNat_ofFin]
  omega

theorem toNat_packNnn (op : BitVec 4) (nnn : Word) :
    (packNnn op nnn).toNat = op.toNat * 4096 + nnn.toNat % 4096 := by
  have h := toNat_append_add op (nnn.extractLsb' 0 12)
  have e : (packNnn op nnn).toNat = _ := h
  rw [e]
  simp [BitVec.extractLsb'_toNat]

theorem toNat_opField (w : Word) : (opField w).toNat = w.toNat / 4096 := by
  have := w.isLt
  simp only [opField, BitVec.extractLsb'_toNat, Nat.shiftRight_eq_div_pow]
  omega

theorem val_xField (w : Word) : (xField w).val = w.toNat / 256 % 16 := by
  show (w.extractLsb' 8 4).toNat = _
  simp only [BitVec.extractLsb'_toNat, Nat.shiftRight_eq_div_pow]

theorem val_yField (w : Word) : (yField w).val = w.toNat / 16 % 16 := by
  show (w.extractLsb' 4 4).toNat = _
  simp only [BitVec.extractLsb'_toNat, Nat.shiftRight_eq_div_pow]

theorem toNat_nField (w : Word) : (nField w).toNat = w.toNat % 16 := by
  simp only [nField, BitVec.extractLsb'_toNat, Nat.shiftRight_eq_div_pow, Nat.pow_zero, Nat.div_one]

theorem toNat_kkField (w : Word) : (kkField w).toNat = w.toNat % 256 := by
  simp only [kkField, BitVec.extractLsb'_toNat, Nat.shiftRight_eq_div_pow, Nat.pow_zero, Nat.div_one]

theorem toNat_nnnField (w : Word) : (nnnField w).toNat = w.toNat % 4096 := by
  simp only [nnnField, BitVec.toNat_setWidth, BitVec.extractLsb'_toNat, Nat.shiftRight_eq_div_pow]
  omega

/-- The address operand the decoder takes always fits in 12 bits (R303). -/
theorem addrFits_nnnField (w : Word) : addrFits (nnnField w) = true := by
  simp only [addrFits, toNat_nnnField, decide_eq_true_eq]
  omega

/-! ## The fields of a packed word -/

section
variable (op : BitVec 4) (x y : RegIdx) (n : BitVec 4) (kk : Byte) (nnn : Word)

@[simp] theorem opField_packXYN : opField (packXYN op x y n) = op := by
  have := x.isLt; have := y.isLt; have := n.isLt
  apply BitVec.eq_of_toNat_eq; rw [toNat_opField, toNat_packXYN]; omega
@[simp] theorem xField_packXYN : xField (packXYN op x y n) = x := by
  have := x.isLt; have := y.isLt; have := n.isLt
  apply Fin.ext; rw [val_xField, toNat_packXYN]; omega
@[simp] theorem yField_packXYN : yField (packXYN op x y n) = y := by
  have := x.isLt; have := y.isLt; have := n.isLt
  apply Fin.ext; rw [val_yField, toNat_packXYN]; omega
@[simp] theorem nField_packXYN : nField (packXYN op x y n) = n := by
  have := x.isLt; have := y.isLt; have := n.isLt
  apply BitVec.eq_of_toNat_eq; rw [toNat_nField, toNat_packXYN]; omega

@[simp] theorem opField_packXKk : opField (packXKk op x kk) = op := by
  have := x.isLt; have := kk.isLt
  apply BitVec.eq_of_toNat_eq; rw [toNat_opField, toNat_packXKk]; omega
@[simp] theorem xField_packXKk : xField (packXKk op x kk) = x := by
  have := x.isLt; have := kk.isLt
  apply Fin.ext; rw [val_xField, toNat_packXKk]; omega
@[simp] theorem kkField_packXKk : kkField (packXKk op x kk) = kk := by
  have := x.isLt; have := kk.isLt
  apply BitVec.eq_of_toNat_eq; rw [toNat_kkField, toNat_packXKk]; omega

@[simp] theorem opField_packNnn : opField (packNnn op nnn) = op := by
  have := op.isLt
  apply BitVec.eq_of_toNat_eq; rw [toNat_opField, toNat_packNnn]; omega
theorem nnnField_packNnn (h : addrFits nnn = true) : nnnField (packNnn op nnn) = nnn := by
  simp only [addrFits, decide_eq_true_eq] at h
  apply BitVec.eq_of_toNat_eq; rw [toNat_nnnField, toNat_packNnn]; omega
end

/-! ## Masks over packed words (R320) -/

theorem and_allOnes4 (a : BitVec 4) : a &&& 0xF#4 = a := BitVec.and_allOnes

theorem and_allOnes8 (a : BitVec 8) : a &&& 0xFF#8 = a := BitVec.and_allOnes

theorem packXYN_and_F000 (op : BitVec 4) (x y : RegIdx) (n : BitVec 4) :
    packXYN op x y n &&& 0xF000 = packXYN op 0 0 0 := by
  have h : (0xF000 : Word) = (0xF#4 ++ 0#4 ++ 0#4 ++ 0#4 : BitVec (4 + 4 + 4 + 4)) := by decide
  rw [h]
  unfold packXYN
  refine (BitVec.and_append ..).trans ?_
  rw [BitVec.and_append, BitVec.and_append, and_allOnes4]; simp

theorem packXYN_and_F00F (op : BitVec 4) (x y : RegIdx) (n : BitVec 4) :
    packXYN op x y n &&& 0xF00F = packXYN op 0 0 n := by
  have h : (0xF00F : Word) = (0xF#4 ++ 0#4 ++ 0#4 ++ 0xF#4 : BitVec (4 + 4 + 4 + 4)) := by decide
  rw [h]
  unfold packXYN
  refine (BitVec.and_append ..).trans ?_
  rw [BitVec.and_append, BitVec.and_append, and_allOnes4, and_allOnes4]; simp

theorem packXKk_and_F000 (op : BitVec 4) (x : RegIdx) (kk : Byte) :
    packXKk op x kk &&& 0xF000 = packXKk op 0 0 := by
  have h : (0xF000 : Word) = (0xF#4 ++ 0#4 ++ 0#8 : BitVec (4 + 4 + 8)) := by decide
  rw [h]
  unfold packXKk
  refine (BitVec.and_append ..).trans ?_
  rw [BitVec.and_append, and_allOnes4]; simp

theorem packXKk_and_F0FF (op : BitVec 4) (x : RegIdx) (kk : Byte) :
    packXKk op x kk &&& 0xF0FF = packXKk op 0 kk := by
  have h : (0xF0FF : Word) = (0xF#4 ++ 0#4 ++ 0xFF#8 : BitVec (4 + 4 + 8)) := by decide
  rw [h]
  unfold packXKk
  refine (BitVec.and_append ..).trans ?_
  rw [BitVec.and_append, and_allOnes4, and_allOnes8]; simp

theorem packNnn_and_F000 (op : BitVec 4) (nnn : Word) : packNnn op nnn &&& 0xF000 = packNnn op 0 := by
  have h : (0xF000 : Word) = (0xF#4 ++ 0#12 : BitVec (4 + 12)) := by decide
  rw [h]
  unfold packNnn
  refine (BitVec.and_append ..).trans ?_
  rw [and_allOnes4]; simp

end Sys2Proof
end

