-- ==== Sys2Proof/Laws/State.lean ====
section
/-!
SUPPORT. What each named update does to each field of the state, so that no later proof unfolds a record update.
-/
namespace Sys2Proof.Machine

variable (s : State)

@[simp] theorem State.setReg_v (x : RegIdx) (b : Byte) : (s.setReg x b).v = s.v.set x b := rfl
@[simp] theorem State.setReg_i (x : RegIdx) (b : Byte) : (s.setReg x b).i = s.i := rfl
@[simp] theorem State.setReg_pc (x : RegIdx) (b : Byte) : (s.setReg x b).pc = s.pc := rfl
@[simp] theorem State.setReg_sp (x : RegIdx) (b : Byte) : (s.setReg x b).sp = s.sp := rfl
@[simp] theorem State.setReg_stack (x : RegIdx) (b : Byte) : (s.setReg x b).stack = s.stack := rfl
@[simp] theorem State.setReg_mem (x : RegIdx) (b : Byte) : (s.setReg x b).mem = s.mem := rfl
@[simp] theorem State.setReg_fb (x : RegIdx) (b : Byte) : (s.setReg x b).fb = s.fb := rfl
@[simp] theorem State.setReg_dt (x : RegIdx) (b : Byte) : (s.setReg x b).dt = s.dt := rfl
@[simp] theorem State.setReg_st (x : RegIdx) (b : Byte) : (s.setReg x b).st = s.st := rfl
@[simp] theorem State.setReg_keys (x : RegIdx) (b : Byte) : (s.setReg x b).keys = s.keys := rfl
@[simp] theorem State.setReg_lastPressed (x : RegIdx) (b : Byte) : (s.setReg x b).lastPressed = s.lastPressed := rfl
@[simp] theorem State.setReg_run (x : RegIdx) (b : Byte) : (s.setReg x b).run = s.run := rfl
@[simp] theorem State.setReg_params (x : RegIdx) (b : Byte) : (s.setReg x b).params = s.params := rfl
@[simp] theorem State.setReg_draws (x : RegIdx) (b : Byte) : (s.setReg x b).draws = s.draws := rfl
@[simp] theorem State.setReg_displayOut (x : RegIdx) (b : Byte) : (s.setReg x b).displayOut = s.displayOut := rfl

@[simp] theorem State.setI_v (w : Word) : (s.setI w).v = s.v := rfl
@[simp] theorem State.setI_i (w : Word) : (s.setI w).i = w := rfl
@[simp] theorem State.setI_pc (w : Word) : (s.setI w).pc = s.pc := rfl
@[simp] theorem State.setI_sp (w : Word) : (s.setI w).sp = s.sp := rfl
@[simp] theorem State.setI_stack (w : Word) : (s.setI w).stack = s.stack := rfl
@[simp] theorem State.setI_mem (w : Word) : (s.setI w).mem = s.mem := rfl
@[simp] theorem State.setI_fb (w : Word) : (s.setI w).fb = s.fb := rfl
@[simp] theorem State.setI_dt (w : Word) : (s.setI w).dt = s.dt := rfl
@[simp] theorem State.setI_st (w : Word) : (s.setI w).st = s.st := rfl
@[simp] theorem State.setI_keys (w : Word) : (s.setI w).keys = s.keys := rfl
@[simp] theorem State.setI_lastPressed (w : Word) : (s.setI w).lastPressed = s.lastPressed := rfl
@[simp] theorem State.setI_run (w : Word) : (s.setI w).run = s.run := rfl
@[simp] theorem State.setI_params (w : Word) : (s.setI w).params = s.params := rfl
@[simp] theorem State.setI_draws (w : Word) : (s.setI w).draws = s.draws := rfl
@[simp] theorem State.setI_displayOut (w : Word) : (s.setI w).displayOut = s.displayOut := rfl

@[simp] theorem State.setPc_v (w : Word) : (s.setPc w).v = s.v := rfl
@[simp] theorem State.setPc_i (w : Word) : (s.setPc w).i = s.i := rfl
@[simp] theorem State.setPc_pc (w : Word) : (s.setPc w).pc = w := rfl
@[simp] theorem State.setPc_sp (w : Word) : (s.setPc w).sp = s.sp := rfl
@[simp] theorem State.setPc_stack (w : Word) : (s.setPc w).stack = s.stack := rfl
@[simp] theorem State.setPc_mem (w : Word) : (s.setPc w).mem = s.mem := rfl
@[simp] theorem State.setPc_fb (w : Word) : (s.setPc w).fb = s.fb := rfl
@[simp] theorem State.setPc_dt (w : Word) : (s.setPc w).dt = s.dt := rfl
@[simp] theorem State.setPc_st (w : Word) : (s.setPc w).st = s.st := rfl
@[simp] theorem State.setPc_keys (w : Word) : (s.setPc w).keys = s.keys := rfl
@[simp] theorem State.setPc_lastPressed (w : Word) : (s.setPc w).lastPressed = s.lastPressed := rfl
@[simp] theorem State.setPc_run (w : Word) : (s.setPc w).run = s.run := rfl
@[simp] theorem State.setPc_params (w : Word) : (s.setPc w).params = s.params := rfl
@[simp] theorem State.setPc_draws (w : Word) : (s.setPc w).draws = s.draws := rfl
@[simp] theorem State.setPc_displayOut (w : Word) : (s.setPc w).displayOut = s.displayOut := rfl

@[simp] theorem State.setDt_v (b : Byte) : (s.setDt b).v = s.v := rfl
@[simp] theorem State.setDt_i (b : Byte) : (s.setDt b).i = s.i := rfl
@[simp] theorem State.setDt_pc (b : Byte) : (s.setDt b).pc = s.pc := rfl
@[simp] theorem State.setDt_sp (b : Byte) : (s.setDt b).sp = s.sp := rfl
@[simp] theorem State.setDt_stack (b : Byte) : (s.setDt b).stack = s.stack := rfl
@[simp] theorem State.setDt_mem (b : Byte) : (s.setDt b).mem = s.mem := rfl
@[simp] theorem State.setDt_fb (b : Byte) : (s.setDt b).fb = s.fb := rfl
@[simp] theorem State.setDt_dt (b : Byte) : (s.setDt b).dt = b := rfl
@[simp] theorem State.setDt_st (b : Byte) : (s.setDt b).st = s.st := rfl
@[simp] theorem State.setDt_keys (b : Byte) : (s.setDt b).keys = s.keys := rfl
@[simp] theorem State.setDt_lastPressed (b : Byte) : (s.setDt b).lastPressed = s.lastPressed := rfl
@[simp] theorem State.setDt_run (b : Byte) : (s.setDt b).run = s.run := rfl
@[simp] theorem State.setDt_params (b : Byte) : (s.setDt b).params = s.params := rfl
@[simp] theorem State.setDt_draws (b : Byte) : (s.setDt b).draws = s.draws := rfl
@[simp] theorem State.setDt_displayOut (b : Byte) : (s.setDt b).displayOut = s.displayOut := rfl

@[simp] theorem State.setSt_v (b : Byte) : (s.setSt b).v = s.v := rfl
@[simp] theorem State.setSt_i (b : Byte) : (s.setSt b).i = s.i := rfl
@[simp] theorem State.setSt_pc (b : Byte) : (s.setSt b).pc = s.pc := rfl
@[simp] theorem State.setSt_sp (b : Byte) : (s.setSt b).sp = s.sp := rfl
@[simp] theorem State.setSt_stack (b : Byte) : (s.setSt b).stack = s.stack := rfl
@[simp] theorem State.setSt_mem (b : Byte) : (s.setSt b).mem = s.mem := rfl
@[simp] theorem State.setSt_fb (b : Byte) : (s.setSt b).fb = s.fb := rfl
@[simp] theorem State.setSt_dt (b : Byte) : (s.setSt b).dt = s.dt := rfl
@[simp] theorem State.setSt_st (b : Byte) : (s.setSt b).st = b := rfl
@[simp] theorem State.setSt_keys (b : Byte) : (s.setSt b).keys = s.keys := rfl
@[simp] theorem State.setSt_lastPressed (b : Byte) : (s.setSt b).lastPressed = s.lastPressed := rfl
@[simp] theorem State.setSt_run (b : Byte) : (s.setSt b).run = s.run := rfl
@[simp] theorem State.setSt_params (b : Byte) : (s.setSt b).params = s.params := rfl
@[simp] theorem State.setSt_draws (b : Byte) : (s.setSt b).draws = s.draws := rfl
@[simp] theorem State.setSt_displayOut (b : Byte) : (s.setSt b).displayOut = s.displayOut := rfl

@[simp] theorem State.setLastPressed_v (k : Option KeyIdx) : (s.setLastPressed k).v = s.v := rfl
@[simp] theorem State.setLastPressed_i (k : Option KeyIdx) : (s.setLastPressed k).i = s.i := rfl
@[simp] theorem State.setLastPressed_pc (k : Option KeyIdx) : (s.setLastPressed k).pc = s.pc := rfl
@[simp] theorem State.setLastPressed_sp (k : Option KeyIdx) : (s.setLastPressed k).sp = s.sp := rfl
@[simp] theorem State.setLastPressed_stack (k : Option KeyIdx) : (s.setLastPressed k).stack = s.stack := rfl
@[simp] theorem State.setLastPressed_mem (k : Option KeyIdx) : (s.setLastPressed k).mem = s.mem := rfl
@[simp] theorem State.setLastPressed_fb (k : Option KeyIdx) : (s.setLastPressed k).fb = s.fb := rfl
@[simp] theorem State.setLastPressed_dt (k : Option KeyIdx) : (s.setLastPressed k).dt = s.dt := rfl
@[simp] theorem State.setLastPressed_st (k : Option KeyIdx) : (s.setLastPressed k).st = s.st := rfl
@[simp] theorem State.setLastPressed_keys (k : Option KeyIdx) : (s.setLastPressed k).keys = s.keys := rfl
@[simp] theorem State.setLastPressed_lastPressed (k : Option KeyIdx) : (s.setLastPressed k).lastPressed = k := rfl
@[simp] theorem State.setLastPressed_run (k : Option KeyIdx) : (s.setLastPressed k).run = s.run := rfl
@[simp] theorem State.setLastPressed_params (k : Option KeyIdx) : (s.setLastPressed k).params = s.params := rfl
@[simp] theorem State.setLastPressed_draws (k : Option KeyIdx) : (s.setLastPressed k).draws = s.draws := rfl
@[simp] theorem State.setLastPressed_displayOut (k : Option KeyIdx) : (s.setLastPressed k).displayOut = s.displayOut := rfl

@[simp] theorem State.setRun_v (r : RunState) : (s.setRun r).v = s.v := rfl
@[simp] theorem State.setRun_i (r : RunState) : (s.setRun r).i = s.i := rfl
@[simp] theorem State.setRun_pc (r : RunState) : (s.setRun r).pc = s.pc := rfl
@[simp] theorem State.setRun_sp (r : RunState) : (s.setRun r).sp = s.sp := rfl
@[simp] theorem State.setRun_stack (r : RunState) : (s.setRun r).stack = s.stack := rfl
@[simp] theorem State.setRun_mem (r : RunState) : (s.setRun r).mem = s.mem := rfl
@[simp] theorem State.setRun_fb (r : RunState) : (s.setRun r).fb = s.fb := rfl
@[simp] theorem State.setRun_dt (r : RunState) : (s.setRun r).dt = s.dt := rfl
@[simp] theorem State.setRun_st (r : RunState) : (s.setRun r).st = s.st := rfl
@[simp] theorem State.setRun_keys (r : RunState) : (s.setRun r).keys = s.keys := rfl
@[simp] theorem State.setRun_lastPressed (r : RunState) : (s.setRun r).lastPressed = s.lastPressed := rfl
@[simp] theorem State.setRun_run (r : RunState) : (s.setRun r).run = r := rfl
@[simp] theorem State.setRun_params (r : RunState) : (s.setRun r).params = s.params := rfl
@[simp] theorem State.setRun_draws (r : RunState) : (s.setRun r).draws = s.draws := rfl
@[simp] theorem State.setRun_displayOut (r : RunState) : (s.setRun r).displayOut = s.displayOut := rfl

@[simp] theorem State.countDraw_v : (s.countDraw).v = s.v := rfl
@[simp] theorem State.countDraw_i : (s.countDraw).i = s.i := rfl
@[simp] theorem State.countDraw_pc : (s.countDraw).pc = s.pc := rfl
@[simp] theorem State.countDraw_sp : (s.countDraw).sp = s.sp := rfl
@[simp] theorem State.countDraw_stack : (s.countDraw).stack = s.stack := rfl
@[simp] theorem State.countDraw_mem : (s.countDraw).mem = s.mem := rfl
@[simp] theorem State.countDraw_fb : (s.countDraw).fb = s.fb := rfl
@[simp] theorem State.countDraw_dt : (s.countDraw).dt = s.dt := rfl
@[simp] theorem State.countDraw_st : (s.countDraw).st = s.st := rfl
@[simp] theorem State.countDraw_keys : (s.countDraw).keys = s.keys := rfl
@[simp] theorem State.countDraw_lastPressed : (s.countDraw).lastPressed = s.lastPressed := rfl
@[simp] theorem State.countDraw_run : (s.countDraw).run = s.run := rfl
@[simp] theorem State.countDraw_params : (s.countDraw).params = s.params := rfl
@[simp] theorem State.countDraw_draws : (s.countDraw).draws = s.draws + 1 := rfl
@[simp] theorem State.countDraw_displayOut : (s.countDraw).displayOut = s.displayOut := rfl

@[simp] theorem State.pushed_v (w : Word) : (s.pushed w).v = s.v := rfl
@[simp] theorem State.pushed_i (w : Word) : (s.pushed w).i = s.i := rfl
@[simp] theorem State.pushed_pc (w : Word) : (s.pushed w).pc = s.pc := rfl
@[simp] theorem State.pushed_sp (w : Word) : (s.pushed w).sp = Fin.ofNat 17 (s.sp.val + 1) := rfl
@[simp] theorem State.pushed_stack (w : Word) : (s.pushed w).stack = s.stack.setIfInBounds s.sp.val w := rfl
@[simp] theorem State.pushed_mem (w : Word) : (s.pushed w).mem = s.mem := rfl
@[simp] theorem State.pushed_fb (w : Word) : (s.pushed w).fb = s.fb := rfl
@[simp] theorem State.pushed_dt (w : Word) : (s.pushed w).dt = s.dt := rfl
@[simp] theorem State.pushed_st (w : Word) : (s.pushed w).st = s.st := rfl
@[simp] theorem State.pushed_keys (w : Word) : (s.pushed w).keys = s.keys := rfl
@[simp] theorem State.pushed_lastPressed (w : Word) : (s.pushed w).lastPressed = s.lastPressed := rfl
@[simp] theorem State.pushed_run (w : Word) : (s.pushed w).run = s.run := rfl
@[simp] theorem State.pushed_params (w : Word) : (s.pushed w).params = s.params := rfl
@[simp] theorem State.pushed_draws (w : Word) : (s.pushed w).draws = s.draws := rfl
@[simp] theorem State.pushed_displayOut (w : Word) : (s.pushed w).displayOut = s.displayOut := rfl

@[simp] theorem State.popped_v : (s.popped).v = s.v := rfl
@[simp] theorem State.popped_i : (s.popped).i = s.i := rfl
@[simp] theorem State.popped_pc : (s.popped).pc = s.pc := rfl
@[simp] theorem State.popped_sp : (s.popped).sp = Fin.ofNat 17 (s.sp.val - 1) := rfl
@[simp] theorem State.popped_stack : (s.popped).stack = s.stack := rfl
@[simp] theorem State.popped_mem : (s.popped).mem = s.mem := rfl
@[simp] theorem State.popped_fb : (s.popped).fb = s.fb := rfl
@[simp] theorem State.popped_dt : (s.popped).dt = s.dt := rfl
@[simp] theorem State.popped_st : (s.popped).st = s.st := rfl
@[simp] theorem State.popped_keys : (s.popped).keys = s.keys := rfl
@[simp] theorem State.popped_lastPressed : (s.popped).lastPressed = s.lastPressed := rfl
@[simp] theorem State.popped_run : (s.popped).run = s.run := rfl
@[simp] theorem State.popped_params : (s.popped).params = s.params := rfl
@[simp] theorem State.popped_draws : (s.popped).draws = s.draws := rfl
@[simp] theorem State.popped_displayOut : (s.popped).displayOut = s.displayOut := rfl

@[simp] theorem State.setFb_v (g : Framebuffer) : (s.setFb g).v = s.v := rfl
@[simp] theorem State.setFb_i (g : Framebuffer) : (s.setFb g).i = s.i := rfl
@[simp] theorem State.setFb_pc (g : Framebuffer) : (s.setFb g).pc = s.pc := rfl
@[simp] theorem State.setFb_sp (g : Framebuffer) : (s.setFb g).sp = s.sp := rfl
@[simp] theorem State.setFb_stack (g : Framebuffer) : (s.setFb g).stack = s.stack := rfl
@[simp] theorem State.setFb_mem (g : Framebuffer) : (s.setFb g).mem = s.mem := rfl
@[simp] theorem State.setFb_fb (g : Framebuffer) : (s.setFb g).fb = g := rfl
@[simp] theorem State.setFb_dt (g : Framebuffer) : (s.setFb g).dt = s.dt := rfl
@[simp] theorem State.setFb_st (g : Framebuffer) : (s.setFb g).st = s.st := rfl
@[simp] theorem State.setFb_keys (g : Framebuffer) : (s.setFb g).keys = s.keys := rfl
@[simp] theorem State.setFb_lastPressed (g : Framebuffer) : (s.setFb g).lastPressed = s.lastPressed := rfl
@[simp] theorem State.setFb_run (g : Framebuffer) : (s.setFb g).run = s.run := rfl
@[simp] theorem State.setFb_params (g : Framebuffer) : (s.setFb g).params = s.params := rfl
@[simp] theorem State.setFb_draws (g : Framebuffer) : (s.setFb g).draws = s.draws := rfl
@[simp] theorem State.setFb_displayOut (g : Framebuffer) : (s.setFb g).displayOut = s.displayOut := rfl

@[simp] theorem State.emitDisplay_v : (s.emitDisplay).v = s.v := rfl
@[simp] theorem State.emitDisplay_i : (s.emitDisplay).i = s.i := rfl
@[simp] theorem State.emitDisplay_pc : (s.emitDisplay).pc = s.pc := rfl
@[simp] theorem State.emitDisplay_sp : (s.emitDisplay).sp = s.sp := rfl
@[simp] theorem State.emitDisplay_stack : (s.emitDisplay).stack = s.stack := rfl
@[simp] theorem State.emitDisplay_mem : (s.emitDisplay).mem = s.mem := rfl
@[simp] theorem State.emitDisplay_fb : (s.emitDisplay).fb = s.fb := rfl
@[simp] theorem State.emitDisplay_dt : (s.emitDisplay).dt = s.dt := rfl
@[simp] theorem State.emitDisplay_st : (s.emitDisplay).st = s.st := rfl
@[simp] theorem State.emitDisplay_keys : (s.emitDisplay).keys = s.keys := rfl
@[simp] theorem State.emitDisplay_lastPressed : (s.emitDisplay).lastPressed = s.lastPressed := rfl
@[simp] theorem State.emitDisplay_run : (s.emitDisplay).run = s.run := rfl
@[simp] theorem State.emitDisplay_params : (s.emitDisplay).params = s.params := rfl
@[simp] theorem State.emitDisplay_draws : (s.emitDisplay).draws = s.draws := rfl
@[simp] theorem State.emitDisplay_displayOut : (s.emitDisplay).displayOut = s.fb :: s.displayOut := rfl

@[simp] theorem State.writeByte_v (a : Nat) (b : Byte) : (s.writeByte a b).v = s.v := rfl
@[simp] theorem State.writeByte_i (a : Nat) (b : Byte) : (s.writeByte a b).i = s.i := rfl
@[simp] theorem State.writeByte_pc (a : Nat) (b : Byte) : (s.writeByte a b).pc = s.pc := rfl
@[simp] theorem State.writeByte_sp (a : Nat) (b : Byte) : (s.writeByte a b).sp = s.sp := rfl
@[simp] theorem State.writeByte_stack (a : Nat) (b : Byte) : (s.writeByte a b).stack = s.stack := rfl
@[simp] theorem State.writeByte_mem (a : Nat) (b : Byte) : (s.writeByte a b).mem = Memory.write s.unlisted s.mem a b := rfl
@[simp] theorem State.writeByte_fb (a : Nat) (b : Byte) : (s.writeByte a b).fb = s.fb := rfl
@[simp] theorem State.writeByte_dt (a : Nat) (b : Byte) : (s.writeByte a b).dt = s.dt := rfl
@[simp] theorem State.writeByte_st (a : Nat) (b : Byte) : (s.writeByte a b).st = s.st := rfl
@[simp] theorem State.writeByte_keys (a : Nat) (b : Byte) : (s.writeByte a b).keys = s.keys := rfl
@[simp] theorem State.writeByte_lastPressed (a : Nat) (b : Byte) : (s.writeByte a b).lastPressed = s.lastPressed := rfl
@[simp] theorem State.writeByte_run (a : Nat) (b : Byte) : (s.writeByte a b).run = s.run := rfl
@[simp] theorem State.writeByte_params (a : Nat) (b : Byte) : (s.writeByte a b).params = s.params := rfl
@[simp] theorem State.writeByte_draws (a : Nat) (b : Byte) : (s.writeByte a b).draws = s.draws := rfl
@[simp] theorem State.writeByte_displayOut (a : Nat) (b : Byte) : (s.writeByte a b).displayOut = s.displayOut := rfl

@[simp] theorem State.halt_v (f : Fault) : (s.halt f).v = s.v := rfl
@[simp] theorem State.halt_i (f : Fault) : (s.halt f).i = s.i := rfl
@[simp] theorem State.halt_pc (f : Fault) : (s.halt f).pc = s.pc := rfl
@[simp] theorem State.halt_sp (f : Fault) : (s.halt f).sp = s.sp := rfl
@[simp] theorem State.halt_stack (f : Fault) : (s.halt f).stack = s.stack := rfl
@[simp] theorem State.halt_mem (f : Fault) : (s.halt f).mem = s.mem := rfl
@[simp] theorem State.halt_fb (f : Fault) : (s.halt f).fb = s.fb := rfl
@[simp] theorem State.halt_dt (f : Fault) : (s.halt f).dt = s.dt := rfl
@[simp] theorem State.halt_st (f : Fault) : (s.halt f).st = s.st := rfl
@[simp] theorem State.halt_keys (f : Fault) : (s.halt f).keys = s.keys := rfl
@[simp] theorem State.halt_lastPressed (f : Fault) : (s.halt f).lastPressed = s.lastPressed := rfl
@[simp] theorem State.halt_run (f : Fault) : (s.halt f).run = .faulted f := rfl
@[simp] theorem State.halt_params (f : Fault) : (s.halt f).params = s.params := rfl
@[simp] theorem State.halt_draws (f : Fault) : (s.halt f).draws = s.draws := rfl
@[simp] theorem State.halt_displayOut (f : Fault) : (s.halt f).displayOut = s.displayOut := rfl

@[simp] theorem State.setFlag_v (c : Bool) : (s.setFlag c).v = s.v.set flagReg (flagByte c) := rfl
@[simp] theorem State.setFlag_i (c : Bool) : (s.setFlag c).i = s.i := rfl
@[simp] theorem State.setFlag_pc (c : Bool) : (s.setFlag c).pc = s.pc := rfl
@[simp] theorem State.setFlag_sp (c : Bool) : (s.setFlag c).sp = s.sp := rfl
@[simp] theorem State.setFlag_stack (c : Bool) : (s.setFlag c).stack = s.stack := rfl
@[simp] theorem State.setFlag_mem (c : Bool) : (s.setFlag c).mem = s.mem := rfl
@[simp] theorem State.setFlag_fb (c : Bool) : (s.setFlag c).fb = s.fb := rfl
@[simp] theorem State.setFlag_dt (c : Bool) : (s.setFlag c).dt = s.dt := rfl
@[simp] theorem State.setFlag_st (c : Bool) : (s.setFlag c).st = s.st := rfl
@[simp] theorem State.setFlag_keys (c : Bool) : (s.setFlag c).keys = s.keys := rfl
@[simp] theorem State.setFlag_lastPressed (c : Bool) : (s.setFlag c).lastPressed = s.lastPressed := rfl
@[simp] theorem State.setFlag_run (c : Bool) : (s.setFlag c).run = s.run := rfl
@[simp] theorem State.setFlag_params (c : Bool) : (s.setFlag c).params = s.params := rfl
@[simp] theorem State.setFlag_draws (c : Bool) : (s.setFlag c).draws = s.draws := rfl
@[simp] theorem State.setFlag_displayOut (c : Bool) : (s.setFlag c).displayOut = s.displayOut := rfl

/-! ## What a state reads depends on memory and the font table alone -/

@[simp] theorem State.setReg_unlisted (x : RegIdx) (b : Byte) : (s.setReg x b).unlisted = s.unlisted := rfl
@[simp] theorem State.setReg_readByte (x : RegIdx) (b : Byte) (q : Nat) : (s.setReg x b).readByte q = s.readByte q := rfl
@[simp] theorem State.setReg_memWf (x : RegIdx) (b : Byte) : (s.setReg x b).memWf = s.memWf := rfl
@[simp] theorem State.setI_unlisted (w : Word) : (s.setI w).unlisted = s.unlisted := rfl
@[simp] theorem State.setI_readByte (w : Word) (q : Nat) : (s.setI w).readByte q = s.readByte q := rfl
@[simp] theorem State.setI_reg (w : Word) (y : RegIdx) : (s.setI w).reg y = s.reg y := rfl
@[simp] theorem State.setI_memWf (w : Word) : (s.setI w).memWf = s.memWf := rfl
@[simp] theorem State.setPc_unlisted (w : Word) : (s.setPc w).unlisted = s.unlisted := rfl
@[simp] theorem State.setPc_readByte (w : Word) (q : Nat) : (s.setPc w).readByte q = s.readByte q := rfl
@[simp] theorem State.setPc_reg (w : Word) (y : RegIdx) : (s.setPc w).reg y = s.reg y := rfl
@[simp] theorem State.setPc_memWf (w : Word) : (s.setPc w).memWf = s.memWf := rfl
@[simp] theorem State.setDt_unlisted (b : Byte) : (s.setDt b).unlisted = s.unlisted := rfl
@[simp] theorem State.setDt_readByte (b : Byte) (q : Nat) : (s.setDt b).readByte q = s.readByte q := rfl
@[simp] theorem State.setDt_reg (b : Byte) (y : RegIdx) : (s.setDt b).reg y = s.reg y := rfl
@[simp] theorem State.setDt_memWf (b : Byte) : (s.setDt b).memWf = s.memWf := rfl
@[simp] theorem State.setSt_unlisted (b : Byte) : (s.setSt b).unlisted = s.unlisted := rfl
@[simp] theorem State.setSt_readByte (b : Byte) (q : Nat) : (s.setSt b).readByte q = s.readByte q := rfl
@[simp] theorem State.setSt_reg (b : Byte) (y : RegIdx) : (s.setSt b).reg y = s.reg y := rfl
@[simp] theorem State.setSt_memWf (b : Byte) : (s.setSt b).memWf = s.memWf := rfl
@[simp] theorem State.setLastPressed_unlisted (k : Option KeyIdx) : (s.setLastPressed k).unlisted = s.unlisted := rfl
@[simp] theorem State.setLastPressed_readByte (k : Option KeyIdx) (q : Nat) : (s.setLastPressed k).readByte q = s.readByte q := rfl
@[simp] theorem State.setLastPressed_reg (k : Option KeyIdx) (y : RegIdx) : (s.setLastPressed k).reg y = s.reg y := rfl
@[simp] theorem State.setLastPressed_memWf (k : Option KeyIdx) : (s.setLastPressed k).memWf = s.memWf := rfl
@[simp] theorem State.setRun_unlisted (r : RunState) : (s.setRun r).unlisted = s.unlisted := rfl
@[simp] theorem State.setRun_readByte (r : RunState) (q : Nat) : (s.setRun r).readByte q = s.readByte q := rfl
@[simp] theorem State.setRun_reg (r : RunState) (y : RegIdx) : (s.setRun r).reg y = s.reg y := rfl
@[simp] theorem State.setRun_memWf (r : RunState) : (s.setRun r).memWf = s.memWf := rfl
@[simp] theorem State.countDraw_unlisted : (s.countDraw).unlisted = s.unlisted := rfl
@[simp] theorem State.countDraw_readByte (q : Nat) : (s.countDraw).readByte q = s.readByte q := rfl
@[simp] theorem State.countDraw_reg (y : RegIdx) : (s.countDraw).reg y = s.reg y := rfl
@[simp] theorem State.countDraw_memWf : (s.countDraw).memWf = s.memWf := rfl
@[simp] theorem State.pushed_unlisted (w : Word) : (s.pushed w).unlisted = s.unlisted := rfl
@[simp] theorem State.pushed_readByte (w : Word) (q : Nat) : (s.pushed w).readByte q = s.readByte q := rfl
@[simp] theorem State.pushed_reg (w : Word) (y : RegIdx) : (s.pushed w).reg y = s.reg y := rfl
@[simp] theorem State.pushed_memWf (w : Word) : (s.pushed w).memWf = s.memWf := rfl
@[simp] theorem State.popped_unlisted : (s.popped).unlisted = s.unlisted := rfl
@[simp] theorem State.popped_readByte (q : Nat) : (s.popped).readByte q = s.readByte q := rfl
@[simp] theorem State.popped_reg (y : RegIdx) : (s.popped).reg y = s.reg y := rfl
@[simp] theorem State.popped_memWf : (s.popped).memWf = s.memWf := rfl
@[simp] theorem State.setFb_unlisted (g : Framebuffer) : (s.setFb g).unlisted = s.unlisted := rfl
@[simp] theorem State.setFb_readByte (g : Framebuffer) (q : Nat) : (s.setFb g).readByte q = s.readByte q := rfl
@[simp] theorem State.setFb_reg (g : Framebuffer) (y : RegIdx) : (s.setFb g).reg y = s.reg y := rfl
@[simp] theorem State.setFb_memWf (g : Framebuffer) : (s.setFb g).memWf = s.memWf := rfl
@[simp] theorem State.emitDisplay_unlisted : (s.emitDisplay).unlisted = s.unlisted := rfl
@[simp] theorem State.emitDisplay_readByte (q : Nat) : (s.emitDisplay).readByte q = s.readByte q := rfl
@[simp] theorem State.emitDisplay_reg (y : RegIdx) : (s.emitDisplay).reg y = s.reg y := rfl
@[simp] theorem State.emitDisplay_memWf : (s.emitDisplay).memWf = s.memWf := rfl
@[simp] theorem State.writeByte_unlisted (a : Nat) (b : Byte) : (s.writeByte a b).unlisted = s.unlisted := rfl
@[simp] theorem State.writeByte_reg (a : Nat) (b : Byte) (y : RegIdx) : (s.writeByte a b).reg y = s.reg y := rfl
@[simp] theorem State.halt_unlisted (f : Fault) : (s.halt f).unlisted = s.unlisted := rfl
@[simp] theorem State.halt_readByte (f : Fault) (q : Nat) : (s.halt f).readByte q = s.readByte q := rfl
@[simp] theorem State.halt_reg (f : Fault) (y : RegIdx) : (s.halt f).reg y = s.reg y := rfl
@[simp] theorem State.halt_memWf (f : Fault) : (s.halt f).memWf = s.memWf := rfl
@[simp] theorem State.setFlag_unlisted (c : Bool) : (s.setFlag c).unlisted = s.unlisted := rfl
@[simp] theorem State.setFlag_readByte (c : Bool) (q : Nat) : (s.setFlag c).readByte q = s.readByte q := rfl
@[simp] theorem State.setFlag_memWf (c : Bool) : (s.setFlag c).memWf = s.memWf := rfl

/-! ## Registers -/

@[simp] theorem State.reg_setReg_same (x : RegIdx) (b : Byte) : (s.setReg x b).reg x = b := by
  simp [State.reg]

theorem State.reg_setReg_ne {x y : RegIdx} (b : Byte) (h : y ≠ x) : (s.setReg x b).reg y = s.reg y := by
  have : x.val ≠ y.val := fun e => h (Fin.ext e.symm)
  simp [State.reg, this]

theorem State.reg_setReg (x y : RegIdx) (b : Byte) : (s.setReg x b).reg y = if y = x then b else s.reg y := by
  by_cases h : y = x
  · subst h; simp
  · simp [h, State.reg_setReg_ne]

theorem State.reg_setFlag (c : Bool) (y : RegIdx) :
    (s.setFlag c).reg y = if y = 15 then flagByte c else s.reg y := s.reg_setReg 15 y (flagByte c)

/-! ## The end of an instruction -/

theorem State.finish_eq (d : Disposition) : s.finish d = .next (s.setPc (nextPc s.pc d)) := rfl

end Sys2Proof.Machine
end

