-- ==== Sys2Proof/Laws/Display.lean ====
section
/-!
SUPPORT. The laws of the sprite blit: which pixels one call of Draw changes and when it reports a collision
(spec/44_display.md R700, R701, R703).
-/
namespace Sys2Proof.Machine

/-! ## One pixel -/

theorem Framebuffer.pixel_setPixel (fb : Framebuffer) (r q : Fin 32) (c d : Fin 64) (b : Bool) :
    (fb.setPixel r c b).pixel q d = if q = r ∧ d = c then b else fb.pixel q d := by
  simp only [Framebuffer.pixel, Framebuffer.setPixel, Fin.getElem_fin, Vector.getElem_set]
  by_cases hr : r.val = q.val
  · have e : q = r := Fin.ext hr.symm
    subst e
    simp only [if_true, Vector.getElem_set, true_and]
    by_cases hc : c.val = d.val
    · have e : d = c := Fin.ext hc.symm
      simp [e]
    · have e : d ≠ c := fun h => hc (congrArg Fin.val h.symm)
      simp [hc, e]
  · have e : q ≠ r := fun h => hr (congrArg Fin.val h.symm)
    simp [hr, e]

/-- Two grids with equal pixels are equal. -/
theorem Framebuffer.ext_pixel {a b : Framebuffer} (h : ∀ r c, a.pixel r c = b.pixel r c) : a = b := by
  apply Vector.ext
  intro r hr
  apply Vector.ext
  intro c hc
  exact h ⟨r, hr⟩ ⟨c, hc⟩

@[simp] theorem Framebuffer.pixel_blank (r : Fin 32) (c : Fin 64) : Framebuffer.blank.pixel r c = false := by
  simp [Framebuffer.pixel, Framebuffer.blank]

/-! ## One sprite row -/

/-- Column `d`'s distance to the right of the sprite's left edge, mod 64. -/
theorem column_eq_iff (sx k : Nat) (hk : k < 8) (hs : sx < 256) (d : Fin 64) :
    d = Fin.ofNat 64 (sx + k) ↔ (d.val + 256 - sx) % 64 = k := by
  rw [Fin.ext_iff]
  have hd := d.isLt
  simp only [Fin.ofNat]
  omega

theorem pixel_blitColumns (row : Fin 32) (sx : Nat) (b : Byte) (n : Nat) (z : Blit) (hn : n ≤ 8) (hs : sx < 256)
    (q : Fin 32) (d : Fin 64) :
    (blitColumns row sx b n z).fb.pixel q d =
      (z.fb.pixel q d ^^ (decide (q = row) && decide ((d.val + 256 - sx) % 64 < n) &&
        b.getLsbD (7 - (d.val + 256 - sx) % 64))) := by
  induction n with
  | zero => simp [blitColumns]
  | succ n ih =>
    have ih := ih (by omega)
    simp only [blitColumns, blitPixel, Framebuffer.pixel_setPixel, column_eq_iff sx n (by omega) hs]
    by_cases hq : q = row
    · by_cases hd : (d.val + 256 - sx) % 64 = n
      · have hd' : d = Fin.ofNat 64 (sx + n) := (column_eq_iff sx n (by omega) hs d).2 hd
        subst hq
        rw [if_pos ⟨rfl, hd⟩, ← hd', ih, hd]
        simp
      · have h : ((d.val + 256 - sx) % 64 < n + 1) ↔ ((d.val + 256 - sx) % 64 < n) := by omega
        simp [ih, hd, h]
    · simp [ih, hq]

theorem collided_blitColumns (row : Fin 32) (sx : Nat) (b : Byte) (n : Nat) (z : Blit) (hn : n ≤ 8) (hs : sx < 256) :
    (blitColumns row sx b n z).collided = true ↔
      z.collided = true ∨ ∃ d : Fin 64, (d.val + 256 - sx) % 64 < n ∧
        b.getLsbD (7 - (d.val + 256 - sx) % 64) = true ∧ z.fb.pixel row d = true := by
  induction n with
  | zero => simp [blitColumns]
  | succ n ih =>
    have ih := ih (by omega)
    have hcol : (Fin.ofNat 64 (sx + n)).val + 256 - sx = ((sx + n) % 64) + 256 - sx := rfl
    have hmod : ((Fin.ofNat 64 (sx + n)).val + 256 - sx) % 64 = n :=
      (column_eq_iff sx n (by omega) hs _).1 rfl
    simp only [blitColumns, blitPixel, Bool.or_eq_true, Bool.and_eq_true, ih,
      pixel_blitColumns row sx b n z (by omega) hs, hmod]
    constructor
    · rintro ((h | ⟨d, h1, h2, h3⟩) | ⟨h1, h2⟩)
      · exact .inl h
      · exact .inr ⟨d, by omega, h2, h3⟩
      · exact .inr ⟨Fin.ofNat 64 (sx + n), by omega, by rw [hmod]; exact h1, by simpa using h2⟩
    · rintro (h | ⟨d, h1, h2, h3⟩)
      · exact .inl (.inl h)
      · by_cases hd : (d.val + 256 - sx) % 64 = n
        · have e := (column_eq_iff sx n (by omega) hs d).2 hd
          right
          rw [hd] at h2
          rw [← e]
          exact ⟨h2, by simp [h3]⟩
        · exact .inl (.inr ⟨d, by omega, h2, h3⟩)

/-! ## The whole sprite -/

/-- Row `q`'s distance below the sprite's top edge, mod 32. -/
theorem row_eq_iff (sy k : Nat) (hk : k < 32) (hs : sy < 256) (q : Fin 32) :
    q = Fin.ofNat 32 (sy + k) ↔ (q.val + 256 - sy) % 32 = k := by
  rw [Fin.ext_iff]
  have hq := q.isLt
  simp only [Fin.ofNat]
  omega

/-- The bit of a list of sprite rows, drawn from row number `k` of the sprite on, that lands on a pixel. -/
def rowsBit (bs : List Byte) (k sx sy : Nat) (q : Fin 32) (d : Fin 64) : Bool :=
  decide (k ≤ (q.val + 256 - sy) % 32) && (decide ((d.val + 256 - sx) % 64 < 8) &&
    (bs[(q.val + 256 - sy) % 32 - k]?.getD 0).getLsbD (7 - (d.val + 256 - sx) % 64))

theorem rowsBit_cons (b : Byte) (bs : List Byte) (k sx sy : Nat) (hk : k < 32) (hy : sy < 256) (q : Fin 32)
    (d : Fin 64) :
    rowsBit (b :: bs) k sx sy q d =
      ((decide (q = Fin.ofNat 32 (sy + k)) && decide ((d.val + 256 - sx) % 64 < 8) &&
        b.getLsbD (7 - (d.val + 256 - sx) % 64)) || rowsBit bs (k + 1) sx sy q d) := by
  unfold rowsBit
  simp only [row_eq_iff sy k hk hy]
  generalize (q.val + 256 - sy) % 32 = m
  by_cases h : m = k
  · subst h
    have h2 : ¬ m + 1 ≤ m := by omega
    simp [h2]
  · by_cases h' : k ≤ m
    · have e : m - k = (m - (k + 1)) + 1 := by omega
      have h2 : k + 1 ≤ m := by omega
      rw [e]
      simp [h, h', h2]
    · have h2 : ¬ k + 1 ≤ m := by omega
      simp [h, h', h2]

theorem rowsBit_first (bs : List Byte) (k sx sy : Nat) (hk : k < 32) (hy : sy < 256) (q : Fin 32)
    (d : Fin 64) (h : q = Fin.ofNat 32 (sy + k)) : rowsBit bs (k + 1) sx sy q d = false := by
  have := (row_eq_iff sy k hk hy q).1 h
  have h2 : ¬ k + 1 ≤ k := by omega
  simp [rowsBit, this, h2]

/-- Every pixel after a blit of at most 32 rows is the old one XOR the sprite's bit there. -/
theorem pixel_blitRows (bs : List Byte) (k sx sy : Nat) (z : Blit) (hx : sx < 256) (hy : sy < 256)
    (hk : k + bs.length ≤ 32) (q : Fin 32) (d : Fin 64) :
    (blitRows sx (sy + k) bs z).fb.pixel q d = (z.fb.pixel q d ^^ rowsBit bs k sx sy q d) := by
  induction bs generalizing k z with
  | nil => simp [blitRows, rowsBit]
  | cons b bs ih =>
    simp only [List.length_cons] at hk
    rw [blitRows, Nat.add_assoc, ih (k + 1) _ (by omega), pixel_blitColumns _ _ _ _ _ (by omega) hx,
      rowsBit_cons b bs k sx sy (by omega) hy]
    by_cases h : q = Fin.ofNat 32 (sy + k)
    · rw [rowsBit_first bs k sx sy (by omega) hy q d h]; simp
    · simp only [decide_eq_false h, Bool.false_and, Bool.false_or, Bool.bne_false]

/-- A blit of at most 32 rows collides exactly where a sprite bit meets a set pixel. -/
theorem collided_blitRows (bs : List Byte) (k sx sy : Nat) (z : Blit) (hx : sx < 256) (hy : sy < 256)
    (hk : k + bs.length ≤ 32) :
    (blitRows sx (sy + k) bs z).collided = true ↔
      z.collided = true ∨ ∃ q d, rowsBit bs k sx sy q d = true ∧ z.fb.pixel q d = true := by
  induction bs generalizing k z with
  | nil => simp [blitRows, rowsBit]
  | cons b bs ih =>
    simp only [List.length_cons] at hk
    rw [blitRows, Nat.add_assoc, ih (k + 1) _ (by omega), collided_blitColumns _ _ _ _ _ (by omega) hx]
    simp only [pixel_blitColumns _ _ _ _ _ (Nat.le_refl 8) hx, rowsBit_cons b bs k sx sy (by omega) hy]
    constructor
    · rintro ((h | ⟨d, h1, h2, h3⟩) | ⟨q, d, h1, h2⟩)
      · exact .inl h
      · exact .inr ⟨Fin.ofNat 32 (sy + k), d, by simp [h1, h2], h3⟩
      · refine .inr ⟨q, d, by simp [h1], ?_⟩
        by_cases hq : q = Fin.ofNat 32 (sy + k)
        · simp [rowsBit_first bs k sx sy (by omega) hy q d hq] at h1
        · simpa only [decide_eq_false hq, Bool.false_and, Bool.bne_false] using h2
    · rintro (h | ⟨q, d, h1, h2⟩)
      · exact .inl (.inl h)
      · by_cases hq : q = Fin.ofNat 32 (sy + k)
        · rw [rowsBit_first bs k sx sy (by omega) hy q d hq] at h1
          simp only [hq, decide_true, Bool.true_and, Bool.or_false, Bool.and_eq_true, decide_eq_true_eq] at h1
          exact .inl (.inr ⟨d, h1.1, h1.2, hq ▸ h2⟩)
        · exact .inr ⟨q, d, by simpa only [decide_eq_false hq, Bool.false_and, Bool.false_or] using h1,
            by simp only [decide_eq_false hq, Bool.false_and, Bool.bne_false, h2]⟩

theorem rowsBit_zero (bs : List Byte) (sx sy : Byte) (q : Fin 32) (d : Fin 64) :
    rowsBit bs 0 sx.toNat sy.toNat q d = spriteBit bs sx sy q d := by
  simp [rowsBit, spriteBit]

/-- Draw's grid, pixel by pixel: the closed form of the loop of R700. -/
theorem pixel_draw (fb : Framebuffer) (bs : List Byte) (sx sy : Byte) (h : bs.length ≤ 32) (q : Fin 32) (d : Fin 64) :
    (draw fb bs sx sy).fb.pixel q d = (fb.pixel q d ^^ spriteBit bs sx sy q d) := by
  rw [← rowsBit_zero]
  exact pixel_blitRows bs 0 sx.toNat sy.toNat ⟨fb, false⟩ sx.isLt sy.isLt (by omega) q d

/-- Draw reports a collision exactly when a source bit meets a set pixel. -/
theorem collided_draw (fb : Framebuffer) (bs : List Byte) (sx sy : Byte) (h : bs.length ≤ 32) :
    (draw fb bs sx sy).collided = true ↔ ∃ q d, spriteBit bs sx sy q d = true ∧ fb.pixel q d = true := by
  have := collided_blitRows bs 0 sx.toNat sy.toNat ⟨fb, false⟩ sx.isLt sy.isLt (by omega)
  simpa [draw, rowsBit_zero] using this

end Sys2Proof.Machine
end

