-- ==== Sys2Proof/Laws/Memory.lean ====
section
/-!
SUPPORT. The laws of memory: a read after a write, the canonical form and that every memory operation keeps it
(spec/20_memory.md R212, R220).
-/
namespace Sys2Proof.Machine

/-! ## Cells -/

theorem Memory.read_erase_same (base : Nat → Byte) (m : Memory) (a : Nat) :
    Memory.read base (m.erase a) a = base a := by
  induction m with
  | nil => rfl
  | cons c m ih =>
    obtain ⟨k, b⟩ := c
    simp only [Memory.erase]
    split
    · exact ih
    · simp [Memory.read, *]

theorem Memory.read_erase_ne (base : Nat → Byte) (m : Memory) {a q : Nat} (h : q ≠ a) :
    Memory.read base (m.erase a) q = Memory.read base m q := by
  induction m with
  | nil => rfl
  | cons c m ih =>
    obtain ⟨k, b⟩ := c
    simp only [Memory.erase]
    split
    · next e => subst e; simp [Memory.read, ih, Ne.symm h]
    · simp [Memory.read, ih]

theorem Memory.read_insert_ne (base : Nat → Byte) (m : Memory) {a q : Nat} (b : Byte) (h : q ≠ a) :
    Memory.read base (m.insert a b) q = Memory.read base m q := by
  induction m with
  | nil => simp [Memory.insert, Memory.read, Ne.symm h]
  | cons c m ih =>
    obtain ⟨k, d⟩ := c
    simp only [Memory.insert]
    split
    · simp [Memory.read, Ne.symm h]
    · simp [Memory.read, ih]

theorem Memory.read_insert_same (base : Nat → Byte) (m : Memory) (a : Nat) (b : Byte)
    (h : ∀ c ∈ m, c.1 ≠ a) : Memory.read base (m.insert a b) a = b := by
  induction m with
  | nil => simp [Memory.insert, Memory.read]
  | cons c m ih =>
    obtain ⟨k, d⟩ := c
    have hk : k ≠ a := h (k, d) (by simp)
    simp only [Memory.insert]
    split
    · simp [Memory.read]
    · simp [Memory.read, hk, ih (fun c hc => h c (by simp [hc]))]

theorem Memory.not_mem_erase (m : Memory) (a : Nat) : ∀ c ∈ m.erase a, c.1 ≠ a := by
  induction m with
  | nil => simp [Memory.erase]
  | cons c m ih =>
    obtain ⟨k, b⟩ := c
    simp only [Memory.erase]
    split
    · exact ih
    · next hk =>
      intro c hc
      rcases List.mem_cons.1 hc with rfl | hc
      · exact hk
      · exact ih c hc

/-- A read after a write to the same address gives the byte written. -/
theorem Memory.read_write_same (base : Nat → Byte) (m : Memory) (a : Nat) (b : Byte) :
    Memory.read base (m.write base a b) a = b := by
  unfold Memory.write
  split
  · next h => rw [Memory.read_erase_same, h]
  · exact Memory.read_insert_same _ _ _ _ (Memory.not_mem_erase m a)

/-- A write leaves every other address alone. -/
theorem Memory.read_write_ne (base : Nat → Byte) (m : Memory) {a q : Nat} (b : Byte) (h : q ≠ a) :
    Memory.read base (m.write base a b) q = Memory.read base m q := by
  unfold Memory.write
  split
  · exact Memory.read_erase_ne _ _ h
  · rw [Memory.read_insert_ne _ _ _ h, Memory.read_erase_ne _ _ h]

/-! ## The canonical form -/

theorem Memory.wfFrom_mono (base : Nat → Byte) (m : Memory) {lo lo' : Nat} (h : lo ≤ lo')
    (w : Memory.wfFrom base lo' m = true) : Memory.wfFrom base lo m = true := by
  cases m with
  | nil => rfl
  | cons c m =>
    simp only [Memory.wfFrom, Bool.and_eq_true, decide_eq_true_eq] at w ⊢
    exact ⟨⟨⟨by omega, w.1.1.2⟩, w.1.2⟩, w.2⟩

theorem Memory.wfFrom_erase (base : Nat → Byte) (m : Memory) (lo a : Nat) (w : Memory.wfFrom base lo m = true) :
    Memory.wfFrom base lo (m.erase a) = true := by
  induction m generalizing lo with
  | nil => rfl
  | cons c m ih =>
    obtain ⟨k, b⟩ := c
    simp only [Memory.wfFrom, Bool.and_eq_true, decide_eq_true_eq] at w
    simp only [Memory.erase]
    split
    · exact Memory.wfFrom_mono base _ (by omega) (ih (k + 1) w.2)
    · simp only [Memory.wfFrom, Bool.and_eq_true, decide_eq_true_eq]
      exact ⟨w.1, ih (k + 1) w.2⟩

theorem Memory.wfFrom_insert (base : Nat → Byte) (m : Memory) (lo a : Nat) (b : Byte) (hlo : lo ≤ a) (ha : a < 0x1000)
    (hb : b ≠ base a) (hne : ∀ c ∈ m, c.1 ≠ a) (w : Memory.wfFrom base lo m = true) :
    Memory.wfFrom base lo (m.insert a b) = true := by
  induction m generalizing lo with
  | nil => simp [Memory.insert, Memory.wfFrom, hlo, ha, hb]
  | cons c m ih =>
    obtain ⟨k, d⟩ := c
    have hk : k ≠ a := hne (k, d) (by simp)
    simp only [Memory.wfFrom, Bool.and_eq_true, decide_eq_true_eq] at w
    simp only [Memory.insert]
    split
    · simp only [Memory.wfFrom, Bool.and_eq_true, decide_eq_true_eq]
      exact ⟨⟨⟨hlo, ha⟩, hb⟩, ⟨⟨by omega, w.1.1.2⟩, w.1.2⟩, w.2⟩
    · simp only [Memory.wfFrom, Bool.and_eq_true, decide_eq_true_eq]
      exact ⟨w.1, ih (k + 1) (by omega) (fun c hc => hne c (by simp [hc])) w.2⟩

/-- A write inside the address space keeps the canonical form. -/
theorem Memory.wf_write (base : Nat → Byte) (m : Memory) (a : Nat) (b : Byte) (ha : a < 0x1000)
    (w : m.wf base = true) : (m.write base a b).wf base = true := by
  unfold Memory.write Memory.wf at *
  split
  · exact Memory.wfFrom_erase base m 0 a w
  · next hb =>
    exact Memory.wfFrom_insert base _ 0 a b (Nat.zero_le a) ha hb (Memory.not_mem_erase m a)
      (Memory.wfFrom_erase base m 0 a w)

/-! ## The state's memory -/

variable (s : State)

@[simp] theorem State.readByte_writeByte_same (a : Nat) (b : Byte) : (s.writeByte a b).readByte a = b :=
  Memory.read_write_same _ _ _ _

theorem State.readByte_writeByte_ne {a q : Nat} (b : Byte) (h : q ≠ a) :
    (s.writeByte a b).readByte q = s.readByte q :=
  Memory.read_write_ne _ _ _ h

theorem State.memWf_writeByte {a : Nat} (b : Byte) (ha : a < 0x1000) (w : s.memWf = true) :
    (s.writeByte a b).memWf = true :=
  Memory.wf_write _ _ _ _ ha w

/-! ### Several bytes -/

theorem State.length_readBytes (a n : Nat) : (s.readBytes a n).length = n := by
  induction n generalizing a with
  | zero => rfl
  | succ n ih => simp [State.readBytes, ih]

theorem State.getElem?_readBytes (a n k : Nat) (h : k < n) : (s.readBytes a n)[k]? = some (s.readByte (a + k)) := by
  induction n generalizing a k with
  | zero => omega
  | succ n ih =>
    cases k with
    | zero => simp [State.readBytes]
    | succ k => simp [State.readBytes, ih (a + 1) k (by omega), Nat.add_assoc, Nat.add_comm 1 k]

/-- Writing bytes changes memory alone. -/
theorem State.writeBytes_mem_only (a : Nat) (bs : List Byte) :
    s.writeBytes a bs = { s with mem := (s.writeBytes a bs).mem } := by
  induction bs generalizing s a with
  | nil => rfl
  | cons b bs ih => simp only [State.writeBytes]; rw [ih]; rfl

theorem State.readByte_writeBytes_outside (a q : Nat) (bs : List Byte) (h : q < a ∨ a + bs.length ≤ q) :
    (s.writeBytes a bs).readByte q = s.readByte q := by
  induction bs generalizing s a with
  | nil => rfl
  | cons b bs ih =>
    simp only [List.length_cons] at h
    rw [State.writeBytes, ih _ _ (by omega), State.readByte_writeByte_ne _ _ (by omega)]

theorem State.readByte_writeBytes_inside (a k : Nat) (bs : List Byte) (h : k < bs.length) :
    (s.writeBytes a bs).readByte (a + k) = bs[k] := by
  induction bs generalizing s a k with
  | nil => simp at h
  | cons b bs ih =>
    cases k with
    | zero => simp [State.writeBytes, State.readByte_writeBytes_outside]
    | succ k =>
      have := ih (s.writeByte a b) (a + 1) k (by simpa using h)
      simpa [State.writeBytes, Nat.add_assoc, Nat.add_comm 1 k] using this

theorem State.memWf_writeBytes (a : Nat) (bs : List Byte) (h : a + bs.length ≤ 0x1000) (w : s.memWf = true) :
    (s.writeBytes a bs).memWf = true := by
  induction bs generalizing s a with
  | nil => exact w
  | cons b bs ih =>
    simp only [List.length_cons] at h
    exact ih _ _ (by omega) (s.memWf_writeByte b (by omega) w)

/-! ### The register ranges of LD [I] and LD Vx,[I] -/

/-- Storing registers changes memory alone. -/
theorem State.storeRegs_mem_only (a n : Nat) : s.storeRegs a n = { s with mem := (s.storeRegs a n).mem } := by
  induction n with
  | zero => rfl
  | succ n ih => simp only [State.storeRegs]; rw [ih]; rfl

theorem State.readByte_storeRegs_outside (a q n : Nat) (h : q < a ∨ a + n ≤ q) :
    (s.storeRegs a n).readByte q = s.readByte q := by
  induction n with
  | zero => rfl
  | succ n ih => rw [State.storeRegs, State.readByte_writeByte_ne _ _ (by omega), ih (by omega)]

theorem State.readByte_storeRegs_inside (a n k : Nat) (h : k < n) :
    (s.storeRegs a n).readByte (a + k) = s.reg (Fin.ofNat 16 k) := by
  induction n with
  | zero => omega
  | succ n ih =>
    by_cases e : k = n
    · subst e; simp [State.storeRegs]
    · rw [State.storeRegs, State.readByte_writeByte_ne _ _ (by omega), ih (by omega)]

theorem State.memWf_storeRegs (a n : Nat) (h : a + n ≤ 0x1000) (w : s.memWf = true) :
    (s.storeRegs a n).memWf = true := by
  induction n with
  | zero => exact w
  | succ n ih => exact State.memWf_writeByte _ _ (by omega) (ih (by omega))

/-- Loading registers changes the registers alone. -/
theorem State.loadRegs_v_only (a n : Nat) : s.loadRegs a n = { s with v := (s.loadRegs a n).v } := by
  induction n with
  | zero => rfl
  | succ n ih => simp only [State.loadRegs]; rw [ih]; rfl

/-- After `LD Vx, [I]`'s loop the first `n` registers hold the bytes from `a` on, the others what they held. -/
theorem State.reg_loadRegs (a n : Nat) (h : n ≤ 16) (y : RegIdx) :
    (s.loadRegs a n).reg y = if y.val < n then s.readByte (a + y.val) else s.reg y := by
  induction n with
  | zero => simp [State.loadRegs]
  | succ n ih =>
    have hn : (Fin.ofNat 16 n).val = n := by simp [Fin.ofNat, Nat.mod_eq_of_lt (show n < 16 by omega)]
    rw [State.loadRegs, State.reg_setReg, ih (by omega)]
    by_cases e : y = Fin.ofNat 16 n
    · subst e; simp only [if_true]; rw [if_pos (by omega), hn]
    · have : y.val ≠ n := fun h' => e (Fin.ext (h'.trans hn.symm))
      rw [if_neg e]
      by_cases l : y.val < n
      · rw [if_pos l, if_pos (by omega)]
      · rw [if_neg l, if_neg (by omega)]

end Sys2Proof.Machine
end

