-- ==== Sys2Proof/Laws/Stack.lean ====
section
/-!
SUPPORT. The call stack: when a push or a pop answers, what it answers, and that a pop gives back what a push stored
(spec/10_state.md R121, R122).
-/
namespace Sys2Proof.Machine

variable (s : State)

theorem StackDepth_toNat_le (d : StackDepth) : d.toNat ≤ 16 := by cases d <;> decide

/-- Everything a push and jump can do (R121, R411). -/
theorem State.pushJump_cases (w a : Word) :
    (s.params.stackDepth.toNat ≤ s.sp.val ∧ s.pushJump w a = .fault (.stackOverflow s.pc)) ∨
    (s.sp.val < s.params.stackDepth.toNat ∧ s.pushJump w a = .next ((s.pushed w).setPc a)) := by
  unfold State.pushJump
  by_cases h : s.params.stackDepth.toNat ≤ s.sp.val
  · exact .inl ⟨h, if_pos h⟩
  · exact .inr ⟨by omega, if_neg h⟩

/-- Everything a pop and jump can do (R122, R410). -/
theorem State.popJump_cases :
    (s.sp.val = 0 ∧ s.popJump = .fault (.stackUnderflow s.pc)) ∨
    (0 < s.sp.val ∧ s.popJump = .next (s.popped.setPc s.top)) := by
  unfold State.popJump
  by_cases h : s.sp = 0
  · exact .inl ⟨by simp [h], if_pos h⟩
  · exact .inr ⟨Nat.pos_of_ne_zero fun e => h (Fin.ext e), if_neg h⟩

theorem State.pushed_sp_val (w : Word) (h : s.sp.val < 16) : (s.pushed w).sp.val = s.sp.val + 1 := by
  simp only [State.pushed_sp, Fin.ofNat]; omega

theorem State.popped_sp_val : s.popped.sp.val = s.sp.val - 1 := by
  have := s.sp.isLt
  simp only [State.popped_sp, Fin.ofNat]; omega

/-- A push stores its word in slot `S[SP]` and leaves the other slots (R121). -/
theorem State.pushed_stack_getElem (w : Word) (k : Fin 16) :
    (s.pushed w).stack[k] = if k.val = s.sp.val then w else s.stack[k] := by
  simp only [State.pushed_stack, Fin.getElem_fin, Vector.getElem_setIfInBounds]
  by_cases h : s.sp.val = k.val
  · simp [h]
  · simp [h, Ne.symm h]

/-- The slot a pop reads, `S[SP-1]` (R122). -/
theorem State.top_eq (k : Fin 16) (h : k.val + 1 = s.sp.val) : s.top = s.stack[k] := by
  have : Fin.ofNat 16 (s.sp.val - 1) = k := by
    apply Fin.ext
    have := k.isLt
    simp only [Fin.ofNat]; omega
  simp only [State.top, this]

/-- What was pushed is what is popped next. -/
theorem State.top_pushed (w : Word) (h : s.sp.val < 16) : (s.pushed w).top = w := by
  rw [State.top_eq (s.pushed w) ⟨s.sp.val, h⟩ (by rw [State.pushed_sp_val s w h]), State.pushed_stack_getElem]
  simp

end Sys2Proof.Machine
end

