-- ==== Sys2Proof/Laws/Exec.lean ====
section
/-!
SUPPORT. Everything each shared operation that can fault does, and everything one step can do.
-/
namespace Sys2Proof.Machine

variable (s : State)

/-! ## The memory bound (spec/20_memory.md R210, R211) -/

/-- The address range from `I` on of length `len` lies in memory. -/
def State.spanInBounds (len : Nat) : Prop := len = 0 ∨ s.i.toNat + len ≤ 0x1000

/-- Everything a bounded access can do. -/
theorem State.withSpan_cases (len : Nat) (body : Result) :
    (s.spanInBounds len ∧ s.withSpan len body = body) ∨
    (¬ s.spanInBounds len ∧ s.withSpan len body = .fault (.outOfBounds (max s.i.toNat 0x1000))) := by
  unfold State.withSpan State.spanInBounds
  by_cases h : 0 < len ∧ 0xFFF < s.i.toNat + len - 1
  · exact .inr ⟨by omega, if_pos h⟩
  · exact .inl ⟨by omega, if_neg h⟩

/-- A bounded access that answers a next state was in bounds and is its body. -/
theorem State.withSpan_next {s : State} {len : Nat} {body : Result} {t : State} (h : s.withSpan len body = .next t) :
    s.spanInBounds len ∧ body = .next t := by
  rcases s.withSpan_cases len body with ⟨a, e⟩ | ⟨_, e⟩
  · rw [e] at h; exact ⟨a, h⟩
  · rw [e] at h; cases h

/-! ## ADD I's flag (spec/43_address_memory.md R610) -/

/-- Everything ADD I's write of VF can do. -/
theorem State.setAddIFlag_cases (i : Word) (b : Byte) :
    (s.params.addIVf = .unchanged ∧ s.setAddIFlag i b = s) ∨
    (s.params.addIVf = .overflow ∧ s.setAddIFlag i b = s.setFlag (leaves12Bits i b)) := by
  unfold State.setAddIFlag
  cases h : s.params.addIVf
  · exact .inl ⟨rfl, rfl⟩
  · exact .inr ⟨rfl, rfl⟩

/-! ## Key skips and digits (spec/41_skips.md R460, R461) -/

theorem nibbleOf_val (k : Fin 16) (b : Byte) (h : b.toNat = k.val) : nibbleOf b = some k := by
  have hk := k.isLt
  unfold nibbleOf
  rw [dif_pos (by omega)]
  congr 1
  exact Fin.ext h

theorem nibbleOf_none (b : Byte) (h : 15 < b.toNat) : nibbleOf b = none := by
  unfold nibbleOf
  rw [dif_neg (by omega)]

/-- Everything a skip on a key can do. -/
theorem State.skipOnKey_cases (b : Byte) (wanted : Bool) :
    (∃ k : Fin 16, b.toNat = k.val ∧
      s.skipOnKey b wanted = .next (s.setPc (if s.keys[k] = wanted then s.pc + 4 else s.pc + 2))) ∨
    (15 < b.toNat ∧ s.params.keyOor = .fault ∧ s.skipOnKey b wanted = .fault (.operandOutOfRange b)) ∨
    (15 < b.toNat ∧ s.params.keyOor = .notPressed ∧
      s.skipOnKey b wanted = .next (s.setPc (if false = wanted then s.pc + 4 else s.pc + 2))) := by
  by_cases h : b.toNat < 16
  · left
    refine ⟨⟨b.toNat, h⟩, rfl, ?_⟩
    simp only [State.skipOnKey, nibbleOf_val ⟨b.toNat, h⟩ b rfl, State.finish_eq, nextPc, beq_iff_eq]
  · right
    simp only [State.skipOnKey, nibbleOf_none b (by omega)]
    cases hk : s.params.keyOor
    · exact .inl ⟨by omega, rfl, rfl⟩
    · exact .inr ⟨by omega, rfl, by simp only [State.finish_eq, nextPc, beq_iff_eq]⟩

/-- A skip on a key that answers a next state moves pc alone. -/
theorem State.skipOnKey_next {s : State} {b : Byte} {wanted : Bool} {t : State} (h : s.skipOnKey b wanted = .next t) :
    ∃ c, t = s.setPc (nextPc s.pc (.skip c)) := by
  rcases s.skipOnKey_cases b wanted with ⟨k, _, e⟩ | ⟨_, _, e⟩ | ⟨_, _, e⟩ <;> rw [e] at h <;> cases h
  · exact ⟨decide (s.keys[k] = wanted), by by_cases hk : s.keys[k] = wanted <;> simp [nextPc, hk]⟩
  · exact ⟨decide (false = wanted), by by_cases hk : false = wanted <;> simp [nextPc, hk]⟩

/-! ## One step (spec/40_sequencer_control.md R400) -/

/-- Everything a step can do. -/
theorem step_cases :
    (s.run ≠ .running ∧ step s = .refused .runEnded) ∨
    (s.run = .running ∧ 0xFFF < s.pc.toNat + 1 ∧ step s = .fault (.outOfBounds s.pc.toNat)) ∨
    (s.run = .running ∧ s.pc.toNat + 1 ≤ 0xFFF ∧ ∃ w, decode s.params.decodeStrict (s.readWord s.pc.toNat) = .decodeError w ∧
      step s = .fault (.decodeError w)) ∨
    (s.run = .running ∧ s.pc.toNat + 1 ≤ 0xFFF ∧ ∃ i, decode s.params.decodeStrict (s.readWord s.pc.toNat) = .instr i ∧
      step s = exec i s) := by
  unfold step runStep
  cases hr : s.run with
  | faulted f => exact .inl ⟨by simp, rfl⟩
  | terminated => exact .inl ⟨by simp, rfl⟩
  | running =>
    right
    by_cases h : 0xFFF < s.pc.toNat + 1
    · exact .inl ⟨rfl, h, by simp [State.fetch, h, runFetched, raise]⟩
    · right
      have h' : s.pc.toNat + 1 ≤ 0xFFF := by omega
      simp only [State.fetch, h, if_false, State.decodeWord]
      cases hd : decode s.params.decodeStrict (s.readWord s.pc.toNat) with
      | instr i => exact .inr ⟨trivial, h', i, rfl, rfl⟩
      | decodeError w => exact .inl ⟨trivial, h', w, rfl, rfl⟩

end Sys2Proof.Machine
end

