-- ==== Sys2Proof/Laws/HostPort.lean ====
section
/-!
SUPPORT. The host's events and the placing of a word (spec/00_scope.md R20, spec/20_memory.md R202).
-/
namespace Sys2Proof.Machine

variable (s : State)

theorem State.whileRunning_running (t : State) (h : s.run = .running) : s.whileRunning t = t := by
  simp [State.whileRunning, h]

theorem State.whileRunning_ended (t : State) (h : s.run ≠ .running) : s.whileRunning t = s := by
  unfold State.whileRunning
  split
  · contradiction
  · rfl
  · rfl

/-- Everything a step event does to the block. -/
theorem State.apply_step_cases :
    (∃ t, step s = .next t ∧ s.apply .step = t) ∨ (∃ f, step s = .fault f ∧ s.apply .step = s.halt f) ∨
    (∃ r, step s = .refused r ∧ s.apply .step = s) := by
  simp only [State.apply]
  cases h : step s with
  | next t => exact .inl ⟨t, rfl, rfl⟩
  | fault f => exact .inr (.inl ⟨f, rfl, rfl⟩)
  | refused r => exact .inr (.inr ⟨r, rfl, rfl⟩)

/-- Loading a program changes memory alone. -/
theorem State.load_mem_only (image : List Byte) : s.load image = { s with mem := (s.load image).mem } :=
  s.writeBytes_mem_only _ _

/-- A word's two bytes make the word again. -/
theorem wordOfBytes_bytesOfWord (w : Word) : wordOfBytes (w.extractLsb' 8 8) (w.extractLsb' 0 8) = w := by
  apply BitVec.eq_of_toNat_eq
  have e : (wordOfBytes (w.extractLsb' 8 8) (w.extractLsb' 0 8)).toNat = _ := BitVec.toNat_append _ _
  have hl : (w.extractLsb' 0 8).toNat < 2 ^ 8 := (w.extractLsb' 0 8).isLt
  rw [e, ← Nat.shiftLeft_add_eq_or_of_lt hl, Nat.shiftLeft_eq]
  have := w.isLt
  simp only [BitVec.extractLsb'_toNat, Nat.shiftRight_eq_div_pow]
  omega

/-- The word placed where the next fetch reads is the word read there. -/
theorem State.readWord_placeWord (w : Word) (h : s.pc.toNat + 1 ≤ 0xFFF) :
    (s.placeWord w).readWord s.pc.toNat = w := by
  have h0 := s.readByte_writeBytes_inside s.pc.toNat 0 (bytesOfWord w) (by simp [bytesOfWord])
  have h1 := s.readByte_writeBytes_inside s.pc.toNat 1 (bytesOfWord w) (by simp [bytesOfWord])
  rw [Nat.add_zero] at h0
  rw [State.placeWord, if_neg (by omega), State.readWord, h0, h1]
  exact wordOfBytes_bytesOfWord w

/-- Placing a word changes memory alone. -/
theorem State.placeWord_mem_only (w : Word) : s.placeWord w = { s with mem := (s.placeWord w).mem } := by
  unfold State.placeWord
  split
  · rfl
  · exact s.writeBytes_mem_only _ _

end Sys2Proof.Machine
end

