-- ==== Sys2Proof/Laws/PerInstr.lean ====
section
/-!
SUPPORT. One lemma per constructor: the word an assembler writes for an instruction matches that instruction's own row of
the opcode map, under both settings of P_DECODE_STRICT (spec/30_encoding.md R320 to R322, R340).
-/
namespace Sys2Proof.Laws.EncodesItsRow

/-- The encoded word fits a row of the opcode map that bears the instruction's mnemonic. -/
def Statement (i : Instr) : Prop :=
  ∃ row ∈ opcodeMap, row.mnemonic = i.mnemonic ∧ ∀ strict, row.fits strict (encode i) = true

/-- A row found at its place in the map, fitted under both settings. -/
theorem of_row {i : Instr} (k : Nat) (row : OpcodeRow) (hk : opcodeMap[k]? = some row)
    (hm : row.mnemonic = i.mnemonic) (hd : encode i &&& row.mask = row.pattern)
    (hs : encode i &&& row.strictMask = row.strictPattern) : Statement i := by
  refine ⟨row, List.mem_of_getElem? hk, hm, fun strict => ?_⟩
  cases strict <;> simp [OpcodeRow.fits, OpcodeRow.maskAt, OpcodeRow.patternAt, hd, hs]

theorem cls : Statement (.cls) :=
  of_row 0 _ rfl rfl (by decide)
    (by decide)

theorem ret : Statement (.ret) :=
  of_row 1 _ rfl rfl (by decide)
    (by decide)

theorem jpAddr (nnn : Word) : Statement (.jpAddr nnn) :=
  of_row 2 _ rfl rfl ((packNnn_and_F000 ..).trans (by decide))
    ((packNnn_and_F000 ..).trans (by decide))

theorem callAddr (nnn : Word) : Statement (.callAddr nnn) :=
  of_row 3 _ rfl rfl ((packNnn_and_F000 ..).trans (by decide))
    ((packNnn_and_F000 ..).trans (by decide))

theorem seVxByte (x : RegIdx) (kk : Byte) : Statement (.seVxByte x kk) :=
  of_row 4 _ rfl rfl ((packXKk_and_F000 ..).trans (by decide))
    ((packXKk_and_F000 ..).trans (by decide))

theorem sneVxByte (x : RegIdx) (kk : Byte) : Statement (.sneVxByte x kk) :=
  of_row 5 _ rfl rfl ((packXKk_and_F000 ..).trans (by decide))
    ((packXKk_and_F000 ..).trans (by decide))

theorem seVxVy (x y : RegIdx) : Statement (.seVxVy x y) :=
  of_row 6 _ rfl rfl ((packXYN_and_F000 ..).trans (by decide))
    ((packXYN_and_F00F ..).trans (by decide))

theorem ldVxByte (x : RegIdx) (kk : Byte) : Statement (.ldVxByte x kk) :=
  of_row 7 _ rfl rfl ((packXKk_and_F000 ..).trans (by decide))
    ((packXKk_and_F000 ..).trans (by decide))

theorem addVxByte (x : RegIdx) (kk : Byte) : Statement (.addVxByte x kk) :=
  of_row 8 _ rfl rfl ((packXKk_and_F000 ..).trans (by decide))
    ((packXKk_and_F000 ..).trans (by decide))

theorem ldVxVy (x y : RegIdx) : Statement (.ldVxVy x y) :=
  of_row 9 _ rfl rfl ((packXYN_and_F00F ..).trans (by decide))
    ((packXYN_and_F00F ..).trans (by decide))

theorem orVxVy (x y : RegIdx) : Statement (.orVxVy x y) :=
  of_row 10 _ rfl rfl ((packXYN_and_F00F ..).trans (by decide))
    ((packXYN_and_F00F ..).trans (by decide))

theorem andVxVy (x y : RegIdx) : Statement (.andVxVy x y) :=
  of_row 11 _ rfl rfl ((packXYN_and_F00F ..).trans (by decide))
    ((packXYN_and_F00F ..).trans (by decide))

theorem xorVxVy (x y : RegIdx) : Statement (.xorVxVy x y) :=
  of_row 12 _ rfl rfl ((packXYN_and_F00F ..).trans (by decide))
    ((packXYN_and_F00F ..).trans (by decide))

theorem addVxVy (x y : RegIdx) : Statement (.addVxVy x y) :=
  of_row 13 _ rfl rfl ((packXYN_and_F00F ..).trans (by decide))
    ((packXYN_and_F00F ..).trans (by decide))

theorem subVxVy (x y : RegIdx) : Statement (.subVxVy x y) :=
  of_row 14 _ rfl rfl ((packXYN_and_F00F ..).trans (by decide))
    ((packXYN_and_F00F ..).trans (by decide))

theorem shrVx (x : RegIdx) : Statement (.shrVx x) :=
  of_row 15 _ rfl rfl ((packXYN_and_F00F ..).trans (by decide))
    ((packXYN_and_F00F ..).trans (by decide))

theorem subnVxVy (x y : RegIdx) : Statement (.subnVxVy x y) :=
  of_row 16 _ rfl rfl ((packXYN_and_F00F ..).trans (by decide))
    ((packXYN_and_F00F ..).trans (by decide))

theorem shlVx (x : RegIdx) : Statement (.shlVx x) :=
  of_row 17 _ rfl rfl ((packXYN_and_F00F ..).trans (by decide))
    ((packXYN_and_F00F ..).trans (by decide))

theorem sneVxVy (x y : RegIdx) : Statement (.sneVxVy x y) :=
  of_row 18 _ rfl rfl ((packXYN_and_F000 ..).trans (by decide))
    ((packXYN_and_F00F ..).trans (by decide))

theorem ldIAddr (nnn : Word) : Statement (.ldIAddr nnn) :=
  of_row 19 _ rfl rfl ((packNnn_and_F000 ..).trans (by decide))
    ((packNnn_and_F000 ..).trans (by decide))

theorem jpV0Addr (nnn : Word) : Statement (.jpV0Addr nnn) :=
  of_row 20 _ rfl rfl ((packNnn_and_F000 ..).trans (by decide))
    ((packNnn_and_F000 ..).trans (by decide))

theorem rndVxByte (x : RegIdx) (kk : Byte) : Statement (.rndVxByte x kk) :=
  of_row 21 _ rfl rfl ((packXKk_and_F000 ..).trans (by decide))
    ((packXKk_and_F000 ..).trans (by decide))

theorem drwVxVyN (x y : RegIdx) (n : Nat) : Statement (.drwVxVyN x y n) :=
  of_row 22 _ rfl rfl ((packXYN_and_F000 ..).trans (by decide))
    ((packXYN_and_F000 ..).trans (by decide))

theorem skpVx (x : RegIdx) : Statement (.skpVx x) :=
  of_row 23 _ rfl rfl ((packXKk_and_F0FF ..).trans (by decide))
    ((packXKk_and_F0FF ..).trans (by decide))

theorem sknpVx (x : RegIdx) : Statement (.sknpVx x) :=
  of_row 24 _ rfl rfl ((packXKk_and_F0FF ..).trans (by decide))
    ((packXKk_and_F0FF ..).trans (by decide))

theorem ldVxDt (x : RegIdx) : Statement (.ldVxDt x) :=
  of_row 25 _ rfl rfl ((packXKk_and_F0FF ..).trans (by decide))
    ((packXKk_and_F0FF ..).trans (by decide))

theorem ldVxK (x : RegIdx) : Statement (.ldVxK x) :=
  of_row 26 _ rfl rfl ((packXKk_and_F0FF ..).trans (by decide))
    ((packXKk_and_F0FF ..).trans (by decide))

theorem ldDtVx (x : RegIdx) : Statement (.ldDtVx x) :=
  of_row 27 _ rfl rfl ((packXKk_and_F0FF ..).trans (by decide))
    ((packXKk_and_F0FF ..).trans (by decide))

theorem ldStVx (x : RegIdx) : Statement (.ldStVx x) :=
  of_row 28 _ rfl rfl ((packXKk_and_F0FF ..).trans (by decide))
    ((packXKk_and_F0FF ..).trans (by decide))

theorem addIVx (x : RegIdx) : Statement (.addIVx x) :=
  of_row 29 _ rfl rfl ((packXKk_and_F0FF ..).trans (by decide))
    ((packXKk_and_F0FF ..).trans (by decide))

theorem ldFVx (x : RegIdx) : Statement (.ldFVx x) :=
  of_row 30 _ rfl rfl ((packXKk_and_F0FF ..).trans (by decide))
    ((packXKk_and_F0FF ..).trans (by decide))

theorem ldBVx (x : RegIdx) : Statement (.ldBVx x) :=
  of_row 31 _ rfl rfl ((packXKk_and_F0FF ..).trans (by decide))
    ((packXKk_and_F0FF ..).trans (by decide))

theorem ldMemVx (x : RegIdx) : Statement (.ldMemVx x) :=
  of_row 32 _ rfl rfl ((packXKk_and_F0FF ..).trans (by decide))
    ((packXKk_and_F0FF ..).trans (by decide))

theorem ldVxMem (x : RegIdx) : Statement (.ldVxMem x) :=
  of_row 33 _ rfl rfl ((packXKk_and_F0FF ..).trans (by decide))
    ((packXKk_and_F0FF ..).trans (by decide))

end Sys2Proof.Laws.EncodesItsRow
end

