-- ==== Sys2Proof/Tests/Slice0.lean ====
section
/-!
SUPPORT. The model's own tests: the WellFormed smoke, words written out from the encodings, one step on small states (expected
values from spec/95_test_vectors.md unless a comment says otherwise), and a witness for every statement with hypotheses.
-/
namespace Sys2Proof.Machine

/-- Another setting of the parameters, for the tests. -/
def State.withParams (s : State) (f : Params → Params) : State := { s with params := f s.params }

/-- Another stack pointer, for the tests. -/
def State.withSp (s : State) (sp : Fin 17) : State := { s with sp := sp }

end Sys2Proof.Machine

namespace Sys2Proof.Tests
open Sys2Proof Sys2Proof.Machine

/-! ## Helpers -/

/-- Reset, changed by `f`, with the word `w` at pc. -/
def start (w : Nat) (f : State → State) : State := (f State.reset).withFetchWord 16 w

/-- The next state of one step, if there is one. -/
def after (s : State) : Option State :=
  match step s with
  | .next t => some t
  | .fault _ => none
  | .refused _ => none

/-- The fault of one step, if there is one. -/
def faultOf (s : State) : Option Fault :=
  match step s with
  | .next _ => none
  | .fault f => some f
  | .refused _ => none

/-! ## WellFormed: an ill-formed term for each check -/

theorem test_wf_jp : (Instr.jpAddr 0xFFF).wellFormed = true ∧ (Instr.jpAddr 0x1000).wellFormed = false := by decide
theorem test_wf_call : (Instr.callAddr 0xFFF).wellFormed = true ∧ (Instr.callAddr 0x1000).wellFormed = false := by decide
theorem test_wf_ldI : (Instr.ldIAddr 0xFFF).wellFormed = true ∧ (Instr.ldIAddr 0xFFFF).wellFormed = false := by decide
theorem test_wf_jpV0 : (Instr.jpV0Addr 0xFFF).wellFormed = true ∧ (Instr.jpV0Addr 0x1000).wellFormed = false := by decide
theorem test_wf_drw : (Instr.drwVxVyN 0 0 15).wellFormed = true ∧ (Instr.drwVxVyN 0 0 16).wellFormed = false := by decide

/-! ## Decoding: a word written out bit by bit for every constructor (spec/30_encoding.md R320: op, x, y or kk, n) -/

theorem test_decode_cls : ∀ strict, decode strict 0b0000000011100000 = .instr (.cls) := by decide
theorem test_decode_ret : ∀ strict, decode strict 0b0000000011101110 = .instr (.ret) := by decide
theorem test_decode_jp : ∀ strict, decode strict 0b0001101010111100 = .instr (.jpAddr 0xABC) := by decide
theorem test_decode_call : ∀ strict, decode strict 0b0010001100000001 = .instr (.callAddr 0x301) := by decide
theorem test_decode_se_byte : ∀ strict, decode strict 0b0011001101000010 = .instr (.seVxByte 3 0x42) := by decide
theorem test_decode_sne_byte : ∀ strict, decode strict 0b0100010100000001 = .instr (.sneVxByte 5 1) := by decide
theorem test_decode_se_reg : ∀ strict, decode strict 0b0101000100100000 = .instr (.seVxVy 1 2) := by decide
theorem test_decode_ld_byte : ∀ strict, decode strict 0b0110101000101111 = .instr (.ldVxByte 10 0x2F) := by decide
theorem test_decode_add_byte : ∀ strict, decode strict 0b0111000100100000 = .instr (.addVxByte 1 0x20) := by decide
theorem test_decode_ld_reg : ∀ strict, decode strict 0b1000000100100000 = .instr (.ldVxVy 1 2) := by decide
theorem test_decode_or : ∀ strict, decode strict 0b1000000100100001 = .instr (.orVxVy 1 2) := by decide
theorem test_decode_and : ∀ strict, decode strict 0b1000000100100010 = .instr (.andVxVy 1 2) := by decide
theorem test_decode_xor : ∀ strict, decode strict 0b1000000100100011 = .instr (.xorVxVy 1 2) := by decide
theorem test_decode_add : ∀ strict, decode strict 0b1000000100100100 = .instr (.addVxVy 1 2) := by decide
theorem test_decode_sub : ∀ strict, decode strict 0b1000000100100101 = .instr (.subVxVy 1 2) := by decide
theorem test_decode_shr : ∀ strict, decode strict 0b1000000100100110 = .instr (.shrVx 1) := by decide
theorem test_decode_subn : ∀ strict, decode strict 0b1000000100100111 = .instr (.subnVxVy 1 2) := by decide
theorem test_decode_shl : ∀ strict, decode strict 0b1000000100101110 = .instr (.shlVx 1) := by decide
theorem test_decode_sne_reg : ∀ strict, decode strict 0b1001101010110000 = .instr (.sneVxVy 10 11) := by decide
theorem test_decode_ld_i : ∀ strict, decode strict 0b1010000100100011 = .instr (.ldIAddr 0x123) := by decide
theorem test_decode_jp_v0 : ∀ strict, decode strict 0b1011001100000000 = .instr (.jpV0Addr 0x300) := by decide
theorem test_decode_rnd : ∀ strict, decode strict 0b1100001100001111 = .instr (.rndVxByte 3 0x0F) := by decide
theorem test_decode_drw : ∀ strict, decode strict 0b1101000100100011 = .instr (.drwVxVyN 1 2 3) := by decide
theorem test_decode_skp : ∀ strict, decode strict 0b1110010110011110 = .instr (.skpVx 5) := by decide
theorem test_decode_sknp : ∀ strict, decode strict 0b1110010110100001 = .instr (.sknpVx 5) := by decide
theorem test_decode_ld_vx_dt : ∀ strict, decode strict 0b1111010100000111 = .instr (.ldVxDt 5) := by decide
theorem test_decode_ld_k : ∀ strict, decode strict 0b1111001100001010 = .instr (.ldVxK 3) := by decide
theorem test_decode_ld_dt : ∀ strict, decode strict 0b1111010100010101 = .instr (.ldDtVx 5) := by decide
theorem test_decode_ld_st : ∀ strict, decode strict 0b1111001000011000 = .instr (.ldStVx 2) := by decide
theorem test_decode_add_i : ∀ strict, decode strict 0b1111001000011110 = .instr (.addIVx 2) := by decide
theorem test_decode_ld_f : ∀ strict, decode strict 0b1111010000101001 = .instr (.ldFVx 4) := by decide
theorem test_decode_ld_b : ∀ strict, decode strict 0b1111000000110011 = .instr (.ldBVx 0) := by decide
theorem test_decode_ld_mem : ∀ strict, decode strict 0b1111001001010101 = .instr (.ldMemVx 2) := by decide
theorem test_decode_ld_vx_mem : ∀ strict, decode strict 0b1111000101100101 = .instr (.ldVxMem 1) := by decide

/-- 95 §2.1: the ignored fields, and their strict reading. -/
theorem test_decode_ignored : decode false 0x0000 = .instr .cls ∧ decode false 0x0FFE = .instr .ret ∧
    decode false 0x5121 = .instr (.seVxVy 1 2) ∧ decode false 0x9AB1 = .instr (.sneVxVy 10 11) := by decide
theorem test_decode_strict : decode true 0x0000 = .decodeError 0x0000 ∧ decode true 0x01E0 = .decodeError 0x01E0 ∧
    decode true 0x0FFE = .decodeError 0x0FFE ∧ decode true 0x5121 = .decodeError 0x5121 ∧
    decode true 0x9AB1 = .decodeError 0x9AB1 := by decide
theorem test_decode_failures : ∀ strict, decode strict 0x0123 = .decodeError 0x0123 ∧
    decode strict 0x8128 = .decodeError 0x8128 ∧ decode strict 0x812F = .decodeError 0x812F ∧
    decode strict 0xE1A0 = .decodeError 0xE1A0 ∧ decode strict 0xF10B = .decodeError 0xF10B ∧
    decode strict 0xFFFF = .decodeError 0xFFFF := by decide
theorem test_decode_bytes : decodeBytes false [0x1A, 0xBC, 0x77] = .instr (.jpAddr 0xABC) [0x77] ∧
    decodeBytes false [0x1A] = .shortOfAWord ∧ decodeBytes false [0x81, 0x28] = .decodeError 0x8128 := by decide
theorem test_table_word : decodeTableWord 16 0xF033 = some (.ldBVx 0) ∧ decodeTableWord 16 0x8128 = none := by decide

/-! ## One step -/

theorem test_cls : (after (start 0x00E0 fun s => (s.setFb (Framebuffer.blank.setPixel 31 63 true)).setReg 15 1)).map (fun t => (t.pc, t.fb.pixel 31 63, t.reg 15, t.displayOut.length)) = some (0x202, false, 1, 1) := by decide
theorem test_ret : (after (start 0x00EE fun s => (s.pushed 0x202).setPc 0x300)).map (fun t => (t.pc, t.sp)) = some (0x202, 0) := by decide
theorem test_ret_empty : faultOf (start 0x00EE fun s => s.setPc 0x300) = some (.stackUnderflow 0x300) := by decide
theorem test_jp_odd : (after (start 0x1301 fun s => s)).map (fun t => (t.pc)) = some (0x301) := by decide
theorem test_jp_top : (after (start 0x1200 fun s => s.setPc 0xFFE)).map (fun t => (t.pc)) = some (0x200) := by decide
theorem test_call : (after (start 0x2200 fun s => s.setPc 0xFFE)).map (fun t => (t.pc, t.sp, t.top)) = some (0x200, 1, 0x1000) := by decide
theorem test_call_depth15 : faultOf (start 0x2300 fun s => (s.withSp 15).withParams fun p => { p with stackDepth := .fifteen }) = some (.stackOverflow 0x200) := by decide
theorem test_jp_v0 : (after (start 0xBFFF fun s => s.setReg 0 0xFF)).map (fun t => (t.pc)) = some (0x10FE) := by decide
theorem test_se_byte : (after (start 0x3342 fun s => s.setReg 3 0x42)).map (fun t => (t.pc)) = some (0x204) := by decide
theorem test_se_byte_no : (after (start 0x3343 fun s => s.setReg 3 0x42)).map (fun t => (t.pc)) = some (0x202) := by decide
theorem test_se_top : (after (start 0x3000 fun s => s.setPc 0xFFC)).map (fun t => (t.pc)) = some (0x1000) := by decide
theorem test_sne_byte : (after (start 0x4342 fun s => s.setReg 3 0x42)).map (fun t => (t.pc)) = some (0x202) := by decide
theorem test_sne_byte_yes : (after (start 0x4300 fun s => s.setReg 3 0x42)).map (fun t => (t.pc)) = some (0x204) := by decide
theorem test_se_reg : (after (start 0x5121 fun s => (s.setReg 1 3).setReg 2 3)).map (fun t => (t.pc)) = some (0x204) := by decide
theorem test_sne_reg : (after (start 0x9120 fun s => (s.setReg 1 7).setReg 2 8)).map (fun t => (t.pc)) = some (0x204) := by decide
theorem test_sne_reg_no : (after (start 0x9110 fun s => s.setReg 1 9)).map (fun t => (t.pc)) = some (0x202) := by decide
theorem test_skp : (after (start 0xE59E fun s => (s.setReg 5 10).keysIn ((Vector.replicate 16 false).set 10 true) none)).map (fun t => (t.pc)) = some (0x204) := by decide
theorem test_skp_range : faultOf (start 0xE59E fun s => s.setReg 5 0x10) = some (.operandOutOfRange 0x10) := by decide
theorem test_sknp : (after (start 0xE5A1 fun s => (s.setReg 5 10).keysIn ((Vector.replicate 16 false).set 10 true) none)).map (fun t => (t.pc)) = some (0x202) := by decide
theorem test_sknp_not_pressed : (after (start 0xE5A1 fun s => (s.setReg 5 0x10).withParams fun p => { p with keyOor := .notPressed })).map (fun t => (t.pc)) = some (0x204) := by decide
theorem test_ld_byte : (after (start 0x6F2F fun s => s)).map (fun t => (t.pc, t.reg 15)) = some (0x202, 0x2F) := by decide
theorem test_add_byte : (after (start 0x7101 fun s => (s.setReg 1 0xFF).setReg 15 0x55)).map (fun t => (t.pc, t.reg 1, t.reg 15)) = some (0x202, 0, 0x55) := by decide
theorem test_ld_reg : (after (start 0x8120 fun s => s.setReg 2 9)).map (fun t => (t.pc, t.reg 1)) = some (0x202, 9) := by decide
theorem test_or : (after (start 0x8121 fun s => ((s.setReg 1 0x0F).setReg 2 0xF0).setReg 15 0x55)).map (fun t => (t.reg 1, t.reg 15)) = some (0xFF, 0x55) := by decide
theorem test_and : (after (start 0x8122 fun s => ((s.setReg 1 0x3C).setReg 2 0x0F).setReg 15 0x55)).map (fun t => (t.reg 1, t.reg 15)) = some (0x0C, 0x55) := by decide
theorem test_xor : (after (start 0x8123 fun s => ((s.setReg 1 0x3C).setReg 2 0x0F).setReg 15 0x55)).map (fun t => (t.reg 1, t.reg 15)) = some (0x33, 0x55) := by decide
theorem test_add : (after (start 0x8124 fun s => (s.setReg 1 0xFF).setReg 2 1)).map (fun t => (t.reg 1, t.reg 15)) = some (0, 1) := by decide
theorem test_add_into_flag : (after (start 0x8F14 fun s => (s.setReg 15 0xF0).setReg 1 0x20)).map (fun t => (t.reg 15)) = some (0x10) := by decide
theorem test_sub : (after (start 0x8125 fun s => (s.setReg 1 3).setReg 2 5)).map (fun t => (t.reg 1, t.reg 15)) = some (0xFE, 0) := by decide
theorem test_sub_equal : (after (start 0x8125 fun s => ((s.setReg 1 4).setReg 2 4).setReg 15 1)).map (fun t => (t.reg 1, t.reg 15)) = some (0, 0) := by decide
theorem test_shr : (after (start 0x8126 fun s => (s.setReg 1 4).setReg 2 0xFF)).map (fun t => (t.reg 1, t.reg 15)) = some (2, 0) := by decide
theorem test_shr_flag : (after (start 0x8106 fun s => s.setReg 1 0xFF)).map (fun t => (t.reg 1, t.reg 15)) = some (0x7F, 1) := by decide
theorem test_subn : (after (start 0x8127 fun s => (s.setReg 1 3).setReg 2 5)).map (fun t => (t.reg 1, t.reg 15)) = some (2, 1) := by decide
theorem test_subn_borrow : (after (start 0x8127 fun s => (s.setReg 1 5).setReg 2 3)).map (fun t => (t.reg 1, t.reg 15)) = some (0xFE, 0) := by decide
theorem test_shl : (after (start 0x810E fun s => s.setReg 1 0x81)).map (fun t => (t.reg 1, t.reg 15)) = some (2, 1) := by decide
theorem test_shl_into_flag : (after (start 0x8F0E fun s => s.setReg 15 0x81)).map (fun t => (t.reg 15)) = some (2) := by decide
theorem test_ld_i : (after (start 0xA123 fun s => s)).map (fun t => (t.pc, t.i)) = some (0x202, 0x123) := by decide
theorem test_add_i_overflow : (after (start 0xF11E fun s => ((s.setI 0xFFF).setReg 1 1).withParams fun p => { p with addIVf := .overflow })).map (fun t => (t.i, t.reg 15)) = some (0x1000, 1) := by decide
theorem test_add_i_wraps : (after (start 0xF01E fun s => ((s.setI 0xFFFF).setReg 0 2).setReg 15 7)).map (fun t => (t.i, t.reg 15)) = some (1, 7) := by decide
theorem test_ld_f : (after (start 0xF029 fun s => s.setReg 0 15)).map (fun t => (t.i)) = some (75) := by decide
theorem test_ld_f_unchanged : (after (start 0xF029 fun s => ((s.setReg 0 0x10).setI 0x300).withParams fun p => { p with fontOor := .unchanged })).map (fun t => (t.pc, t.i)) = some (0x202, 0x300) := by decide
theorem test_ld_b : (after (start 0xF033 fun s => (s.setReg 0 254).setI 0x300)).map (fun t => (t.readByte 0x300, t.readByte 0x301, t.readByte 0x302, t.i)) = some (2, 5, 4, 0x300) := by decide
theorem test_ld_b_bounds : faultOf (start 0xF033 fun s => (s.setReg 0 0x7B).setI 0xFFE) = some (.outOfBounds 0x1000) := by decide
theorem test_ld_mem : (after (start 0xF255 fun s => (((s.setI 0x300).setReg 0 1).setReg 1 2).setReg 2 3)).map (fun t => (t.readByte 0x300, t.readByte 0x301, t.readByte 0x302, t.readByte 0x303)) = some (1, 2, 3, 0) := by decide
theorem test_ld_mem_bounds : faultOf (start 0xF055 fun s => s.setI 0x2000) = some (.outOfBounds 0x2000) := by decide
theorem test_ld_vx_mem : (after (start 0xF165 fun s => (s.setI 0x300).writeBytes 0x300 [0xAA, 0xBB, 0xCC])).map (fun t => (t.reg 0, t.reg 1, t.reg 2)) = some (0xAA, 0xBB, 0) := by decide
theorem test_ld_vx_mem_all : (after (start 0xFF65 fun s => (s.setI 0x300).writeBytes 0x30F [0x5A])).map (fun t => (t.reg 15, t.i)) = some (0x5A, 0x300) := by decide
theorem test_drw_wraps : (after (start 0xD121 fun s => ((s.setReg 1 62).setI 0x300).writeBytes 0x300 [0xFF])).map (fun t => (t.fb.pixel 0 61, t.fb.pixel 0 62, t.fb.pixel 0 5, t.fb.pixel 0 6, t.reg 15)) = some (false, true, true, false, 0) := by decide
theorem test_drw_old_flag : (after (start 0xDF01 fun s => ((s.setReg 15 3).setI 0x300).writeBytes 0x300 [0x80])).map (fun t => (t.fb.pixel 0 3, t.reg 15)) = some (true, 0) := by decide
theorem test_ld_vx_dt : (after (start 0xF507 fun s => s.setDt 0x3C)).map (fun t => (t.reg 5)) = some (0x3C) := by decide
theorem test_ld_dt : (after (start 0xF515 fun s => s.setReg 5 0x3C)).map (fun t => (t.dt)) = some (0x3C) := by decide
theorem test_ld_st : (after (start 0xF218 fun s => s.setReg 2 5)).map (fun t => (t.st, t.soundOut)) = some (5, true) := by decide
theorem test_ld_k : (after (start 0xFF0A fun s => (s.setReg 15 1).setLastPressed (some 12))).map (fun t => (t.pc, t.reg 15, t.lastPressed)) = some (0x202, 0x0C, none) := by decide
theorem test_ld_k_stalls : (after (start 0xF30A fun s => s.keysIn (Vector.replicate 16 true) none)).map (fun t => (t.pc, t.reg 3)) = some (0x200, 0) := by decide

/-- 95 §2.4, `C30F`: the byte is whatever the environment gives. -/
theorem test_rnd : (after (start 0xC30F id)).map (fun t => (t.reg 3, t.draws)) = some (Config.randomByte 0 &&& 0x0F, 1) := rfl

/-! ## Fetch, events, reset -/

theorem test_fetch_bound : faultOf (start 0x0000 fun s => s.setPc 0xFFF) = some (.outOfBounds 0xFFF) := by decide
theorem test_decode_failure : faultOf (start 0x8128 fun s => s) = some (.decodeError 0x8128) := by decide
theorem test_ended : step (State.reset.setRun .terminated) = .refused .runEnded := rfl
theorem test_tick : (fun t => (t.dt, t.st, t.soundOut)) (((State.reset.setDt 3).setSt 1).tick) = (2, 0, false) := by decide
theorem test_tick_saturates : State.reset.tick = State.reset := by decide
theorem test_keys_in : (fun t => (t.keys, t.lastPressed))
    ((State.reset.keysIn ((Vector.replicate 16 false).set 5 true) (some 5)).keysIn ((Vector.replicate 16 false).set 2 true) (some 2)) =
    ((Vector.replicate 16 false).set 2 true, some 2) := by decide
theorem test_terminate : State.reset.terminate.run = .terminated := by decide
/-- 95 §1.5. -/
theorem test_font_7 : State.reset.readBytes 35 5 = [0xF0, 0x10, 0x20, 0x40, 0x40] := by decide
theorem test_load : (State.construct Config.defaults [0x1F, 0xFC]).readWord 0x200 = 0x1FFC := by decide
/-- Writing what an unlisted address reads as removes the cell again. -/
theorem test_canonical : ((State.reset.writeByte 0x300 7).writeByte 0x300 0).mem = [] := by decide
/-- Both words of 95 P4's end: the fault is reported with its code. -/
theorem test_halt_out : (State.reset.setPc 0x1000).haltOut .step = some (4, 0x1000) := by decide

/-! ## Witnesses: a concrete state and operands that meet the hypotheses of each statement that has any, at a boundary value for
each clause. -/

/-- A full sprite: 15 rows. -/
def tallSprite : List Byte := [0x80, 1, 2, 3, 4, 5, 6, 7, 8, 9, 10, 11, 12, 13, 0xFF]

/-- Every parameter at its other setting. -/
def otherParams (p : Params) : Params :=
  { p with addIVf := .overflow, decodeStrict := true, stackDepth := .fifteen, fontOor := .unchanged, keyOor := .notPressed }

theorem witness_DecodeOfEncodeIsIdentity : (Instr.drwVxVyN 15 15 15).wellFormed = true ∧
    (Instr.jpV0Addr 0xFFF).wellFormed = true := by decide
theorem witness_DecodedInstructionIsWellFormed : decode true 0xBFFF = .instr (.jpV0Addr 0xFFF) := by decide
theorem witness_DecodeDropsOnlyIgnoredBits : decode false 0x0FF0 = .instr .cls ∧ decode true 0x81F6 = .instr (.shrVx 1) ∧
    decode false 0x5FFF = .instr (.seVxVy 15 15) := by decide
theorem witness_DecodeFollowsOpcodeMap : (∃ row ∈ opcodeMap, row.fits true 0x00E0 = true) ∧
    (∀ row ∈ opcodeMap, row.fits false 0x8008 = false) := by decide
theorem witness_DecodeExamplesOfTheDocument : (0x0FFF : Word).toNat / 4096 = 0 ∧ (0x0FFF : Word).toNat % 16 ≠ 0 ∧
    (0x0FFF : Word).toNat % 16 ≠ 0xE := by decide
theorem witness_StepRunsDecodedInstruction : let s := start 0x1ABC fun s => s.setPc 0xFFE
    s.run = .running ∧ s.pc.toNat + 1 ≤ 0xFFF ∧
    decode s.params.decodeStrict (wordOfBytes (s.readByte s.pc.toNat) (s.readByte (s.pc.toNat + 1))) = .instr (.jpAddr 0xABC) := by
  decide
theorem witness_FetchedWordIsBigEndian : State.reset.run = .running ∧ (State.reset.setPc 0xFFE).pc.toNat + 1 ≤ 0xFFF := by
  decide
theorem witness_FetchAboveTheTopFaults : (State.reset.setPc 0xFFF).run = .running ∧
    0xFFF < (State.reset.setPc 0xFFF).pc.toNat + 1 := by decide
theorem witness_UnlistedWordIsFatal : let s := start 0x8128 id
    s.run = .running ∧ s.pc.toNat + 1 ≤ 0xFFF ∧
    ∀ row ∈ opcodeMap, row.fits s.params.decodeStrict (s.readWord s.pc.toNat) = false := by decide
theorem witness_FaultWritesOnlyRunAndIsFinal : step (start 0x00EE id) = .fault (.stackUnderflow 0x200) := rfl
theorem witness_EndedRunChangesNothing : (State.reset.halt (.outOfBounds 0x1000)).run ≠ .running ∧
    State.reset.terminate.run ≠ .running := by decide
theorem witness_PlacedWordIsRunNext : State.reset.run = .running ∧ (State.reset.setPc 0xFFE).pc.toNat + 1 ≤ 0xFFF ∧
    State.reset.params.decodeStrict = Config.defaults.decodeStrict ∧ decodeTableWord 16 0xFF65 = some (.ldVxMem 15) := by decide
theorem witness_TerminateStopsCleanly : (State.reset.setPc 0xFFF).run = .running := by decide
theorem witness_TickDecrementsSaturating : ((State.reset.setDt 0).setSt 0xFF).run = .running ∧
    exec (.ldStVx 15) State.reset = .next ((State.reset.setSt 0).setPc 0x202) := ⟨by decide, rfl⟩
theorem witness_KeySnapshotReplacesKeyState : (State.reset.setLastPressed (some 15)).run = .running := by decide
theorem witness_EmptyImageFirstStep : Config.defaults.decodeStrict = false ∧ (otherParams Config.defaults).decodeStrict = true := by
  decide

/-- A state that meets the invariant and steps: pc at the last fetch, the stack full. -/
def edgeState : State := start 0x00EE fun s => (s.setPc 0xFFE).withSp 16

theorem witness_StepKeepsTheMachineInvariant : Inv edgeState ∧ step edgeState = .next ((edgeState.setPc 0).withSp 15) :=
  ⟨⟨by decide, by decide, by decide, by decide, rfl⟩, rfl⟩
theorem witness_EventsKeepTheMachineInvariant : Inv edgeState := witness_StepKeepsTheMachineInvariant.1
theorem witness_OnlyListedRegistersChange : (∃ t, exec (.drwVxVyN 15 0 0) State.reset = .next t) ∧
    writesReg State.reset.params (.drwVxVyN 15 0 0) 14 = false := ⟨⟨_, rfl⟩, by decide⟩
theorem witness_MemoryChangesOnlyWhereStored : (∃ t, exec (.ldMemVx 15) (State.reset.setI 0xFF0) = .next t) ∧
    (0xFEF < (State.reset.setI 0xFF0).i.toNat ∨ (State.reset.setI 0xFF0).i.toNat + storedBytes (.ldMemVx 15) ≤ 0xFEF) :=
  ⟨⟨_, rfl⟩, by decide⟩
theorem witness_OnlyCallAndRetUseTheStack : Instr.ldVxMem 15 ≠ .ret ∧ ∀ nnn, Instr.ldVxMem 15 ≠ .callAddr nnn :=
  ⟨by decide, fun _ => by simp⟩
theorem witness_DisplayUpdateAfterClearAndDraw : (∃ t, exec .cls State.reset = .next t) ∧
    (∃ t, exec (.drwVxVyN 0 0 15) State.reset = .next t) ∧ (∃ t, exec (.jpAddr 0xFFF) State.reset = .next t) :=
  ⟨⟨_, rfl⟩, ⟨_, rfl⟩, ⟨_, rfl⟩⟩
theorem witness_FieldsChangeOnlyByTheirInstructions : ∃ t, exec (.ldVxK 15) (State.reset.setLastPressed (some 15)) = .next t :=
  ⟨_, rfl⟩
theorem witness_PcFollowsTheDispositionTable : (∃ t, exec .ret (State.reset.withSp 16) = .next t) ∧
    (∃ t, exec (.skpVx 0) (State.reset.setReg 0 15) = .next t) ∧ ∃ t, exec (.ldVxK 0) State.reset = .next t :=
  ⟨⟨_, rfl⟩, ⟨_, rfl⟩, ⟨_, rfl⟩⟩
theorem witness_FaultCausesAreTheListedOnes :
    exec (.callAddr 0) (State.reset.withSp 16) = .fault (.stackOverflow 0x200) ∧
    exec .ret State.reset = .fault (.stackUnderflow 0x200) ∧
    exec (.drwVxVyN 0 0 1) (State.reset.setI 0x1000) = .fault (.outOfBounds 0x1000) ∧
    exec (.sknpVx 0) (State.reset.setReg 0 16) = .fault (.operandOutOfRange 16) ∧
    exec (.ldFVx 0) (State.reset.setReg 0 16) = .fault (.operandOutOfRange 16) := ⟨rfl, rfl, rfl, rfl, rfl⟩
theorem witness_OutOfBoundsNamesTheLowestAddress : let s := State.reset.setI 0xFFF
    (∃ k < touchedBytes (.drwVxVyN 0 0 2), 0xFFF < s.i.toNat + k) ∧ (∃ k < touchedBytes (.ldBVx 0), 0xFFF < s.i.toNat + k) ∧
    (∃ k < touchedBytes (.ldMemVx 1), 0xFFF < s.i.toNat + k) ∧ (∃ k < touchedBytes (.ldVxMem 1), 0xFFF < s.i.toNat + k) := by
  decide
theorem witness_JumpsSetPcAlone : addrFits 0xFFF = true := by decide
theorem witness_CallPushesTheReturnAddress : (State.reset.withSp 15).sp.val < State.reset.params.stackDepth.toNat ∧
    (State.reset.withSp 16).sp.val = State.reset.params.stackDepth.toNat ∧
    ((State.reset.withSp 15).withParams otherParams).sp.val = ((State.reset.withSp 15).withParams otherParams).params.stackDepth.toNat := by
  decide
theorem witness_RetPopsIntoPc : (15 : Fin 16).val + 1 = (State.reset.withSp 16).sp.val ∧
    (0 : Fin 16).val + 1 = (State.reset.withSp 1).sp.val ∧ State.reset.sp.val = 0 := by decide
theorem witness_RetAfterCallReturns : (State.reset.withSp 15).sp.val < State.reset.params.stackDepth.toNat := by decide
/-- V0, V1 = 00 E0 stored over the next instruction, which is then CLS. -/
theorem witness_StoreIsSeenByTheNextFetch : let s := (State.reset.setI 0x202).setReg 1 0xE0
    s.run = .running ∧ s.i.toNat + (1 : RegIdx).val ≤ 0xFFF ∧ (1 : RegIdx) ≤ 1 ∧ (1 : RegIdx).val = (0 : RegIdx).val + 1 ∧
    s.pc.toNat + 2 = s.i.toNat + (0 : RegIdx).val ∧
    decode s.params.decodeStrict (wordOfBytes (s.reg 0) (s.reg 1)) = .instr .cls := by decide
theorem witness_KeySkipsReadTheSnapshot : ((State.reset.setReg 0 15).reg 0).toNat = (15 : Fin 16).val ∧
    15 < ((State.reset.setReg 0 16).reg 0).toNat ∧ State.reset.params.keyOor = .fault ∧
    (State.reset.withParams otherParams).params.keyOor = .notPressed := by decide
theorem witness_RandomByteIsMasked : (0 : Byte) = 0 ∧ (0xFF : Byte) = 0xFF ∧ (14 : RegIdx) ≠ 15 := by decide
theorem witness_AddressRegisterIsLoadedAndAdded : State.reset.params.addIVf = .unchanged ∧
    (State.reset.withParams otherParams).params.addIVf = .overflow := by decide
theorem witness_FontAddressOfADigit : ((State.reset.setReg 0 15).reg 0).toNat ≤ 15 ∧
    15 < ((State.reset.setReg 0 16).reg 0).toNat ∧ State.reset.params.fontOor = .fault ∧
    (State.reset.withParams otherParams).params.fontOor = .unchanged := by decide
theorem witness_DecimalDigitsAreStored : (State.reset.setI 0xFFD).i.toNat + 2 ≤ 0xFFF := by decide
theorem witness_RegistersAreStored : (State.reset.setI 0xFF0).i.toNat + (15 : RegIdx).val ≤ 0xFFF := by decide
theorem witness_RegistersAreLoaded : (State.reset.setI 0xFFF).i.toNat + (0 : RegIdx).val ≤ 0xFFF := by decide
theorem witness_StoreThenLoadRestoresRegisters : (State.reset.setI 0xFF0).i.toNat + (15 : RegIdx).val ≤ 0xFFF := by decide
theorem witness_DrawInstructionBlitsTheSprite : nibbleFits 15 = true ∧ (State.reset.setI 0xFF1).i.toNat + 15 - 1 ≤ 0xFFF ∧
    nibbleFits 0 = true ∧
    (∃ r c, spriteBit [0x80] 0 0 r c = true ∧ (Framebuffer.blank.setPixel 0 0 true).pixel r c = true) ∧
    (∀ r c, spriteBit [] 0xFF 0xFF r c = true → Framebuffer.blank.pixel r c = false) :=
  ⟨by decide, by decide, by decide, ⟨0, 0, by decide, by decide⟩, fun _ _ h => by simp [spriteBit] at h⟩
theorem witness_DrawWrapsAndXorsEachBit : tallSprite.length ≤ 15 ∧ tallSprite[14]? = some 0xFF := by decide
theorem witness_CollisionIffAPixelWasErased : tallSprite.length ≤ 15 := by decide
theorem witness_DrawingTwiceRestoresTheGrid : tallSprite.length ≤ 15 ∧ Framebuffer.blank = Framebuffer.blank := by decide
theorem witness_SecondDrawCollidesOnAnyGrid : tallSprite.length ≤ 15 := by decide
theorem witness_SecondDrawCollidesWhereTheFirstDidNot : [0x80#8].length ≤ 15 ∧
    (draw Framebuffer.blank [0x80#8] 63 31).collided = false ∧
    (draw (draw Framebuffer.blank [0x80#8] 63 31).fb [0x80#8] 63 31).collided = true := by decide
theorem witness_KeyWaitConsumesAPressOrStalls : (State.reset.setLastPressed (some 15)).lastPressed = some 15 ∧
    State.reset.lastPressed = none := by decide

end Sys2Proof.Tests
end

section
/-!
PROOF. The state (spec/10_state.md): the decoder's operands are bounded; what a completed execution does, said once as
`Effect`; the invariant; what no execution reads; the statements about the state settled from these.
-/
namespace Sys2Proof

/-! ## Whatever a word is decoded to fits its fields (R303, R340) -/

section
variable {strict : Bool} {w : Word} {i j : Instr}

theorem decodeFamily0_wellFormed (h : decodeFamily0 strict w = .instr i) : i.wellFormed = true := by
  unfold decodeFamily0 at h
  split at h
  case h_1 | h_2 => cases h; rfl
  case h_3 | h_4 => split at h <;> cases h; rfl
  case h_5 => cases h

theorem eq_of_decodeRegPair (h : decodeRegPair strict w i = .instr j) : j = i := by
  unfold decodeRegPair at h
  split at h <;> cases h
  rfl

theorem decodeFamily8_wellFormed (h : decodeFamily8 w = .instr i) : i.wellFormed = true := by
  unfold decodeFamily8 at h
  split at h <;> cases h <;> rfl

theorem decodeFamilyE_wellFormed (h : decodeFamilyE w = .instr i) : i.wellFormed = true := by
  unfold decodeFamilyE at h
  split at h <;> cases h <;> rfl

theorem decodeFamilyF_wellFormed (h : decodeFamilyF w = .instr i) : i.wellFormed = true := by
  unfold decodeFamilyF at h
  split at h <;> cases h <;> rfl

/-- Family by family (R321 to R326), case `h_k` being the leading nibble `k - 1`: an operand that has a bound is a field
of the word. -/
theorem decode_wellFormed (h : decode strict w = .instr i) : i.wellFormed = true := by
  unfold decode at h
  split at h
  case h_1 => exact decodeFamily0_wellFormed h
  case h_6 => rw [eq_of_decodeRegPair h]; rfl
  case h_9 => exact decodeFamily8_wellFormed h
  case h_10 => rw [eq_of_decodeRegPair h]; rfl
  case h_2 | h_3 | h_11 | h_12 => cases h; exact addrFits_nnnField w
  case h_14 => cases h; exact decide_eq_true (nField w).isLt
  case h_15 => exact decodeFamilyE_wellFormed h
  case h_16 => exact decodeFamilyF_wellFormed h
  all_goals cases h; rfl
end

end Sys2Proof

namespace Sys2Proof.Machine

/-! ## What a completed execution does, said once -/

/-- `v` holds what the registers of `s` held, but for those R102 and R103 list for the instruction. -/
def State.OnlyListedRegs (s : State) (i : Instr) (v : Vector Byte 16) : Prop :=
  ∀ r : RegIdx, writesReg s.params i r = false → v[r] = s.v[r]

/-- Where pc can stand after an instruction that does not jump (R402). -/
def State.PcNear (s : State) (pc : Word) : Prop := pc = s.pc ∨ pc = s.pc + 2 ∨ pc = s.pc + 4

/-- Everything an instruction that raises no fault can leave behind, by the fields it writes (`exec_effect`). -/
inductive Effect (s : State) : Instr → State → Prop
  /-- The ALU, the loads of registers, the skips, the stall. -/
  | registers {i : Instr} {v : Vector Byte 16} {pc : Word} (kept : s.OnlyListedRegs i v) (near : s.PcNear pc) :
      Effect s i { s with v := v, pc := pc }
  | jump {nnn : Word} : Effect s (.jpAddr nnn) (s.setPc nnn)
  | jumpV0 {nnn : Word} : Effect s (.jpV0Addr nnn) (s.setPc (nnn + zext16 (s.reg 0)))
  | call {nnn : Word} (room : s.sp.val < s.params.stackDepth.toNat) :
      Effect s (.callAddr nnn) ((s.pushed (s.pc + 2)).setPc nnn)
  | ret (entry : 0 < s.sp.val) : Effect s .ret (s.popped.setPc s.top)
  | loadI {nnn : Word} : Effect s (.ldIAddr nnn) { s with i := nnn, pc := s.pc + 2 }
  | addI {x : RegIdx} {v : Vector Byte 16} (kept : s.OnlyListedRegs (.addIVx x) v) :
      Effect s (.addIVx x) { s with v := v, i := s.i + zext16 (s.reg x), pc := s.pc + 2 }
  | glyph {x : RegIdx} {d : Fin 16} : Effect s (.ldFVx x) { s with i := glyphAddress d, pc := s.pc + 2 }
  | clear : Effect s .cls
      { s with fb := Framebuffer.blank, displayOut := Framebuffer.blank :: s.displayOut, pc := s.pc + 2 }
  | sprite {x y : RegIdx} {n : Nat} {v : Vector Byte 16} {g : Framebuffer}
      (kept : s.OnlyListedRegs (.drwVxVyN x y n) v) :
      Effect s (.drwVxVyN x y n) { s with v := v, fb := g, displayOut := g :: s.displayOut, pc := s.pc + 2 }
  | delay {x : RegIdx} : Effect s (.ldDtVx x) { s with dt := s.reg x, pc := s.pc + 2 }
  | sound {x : RegIdx} : Effect s (.ldStVx x) { s with st := s.reg x, pc := s.pc + 2 }
  | key {x : RegIdx} {v : Vector Byte 16} (kept : s.OnlyListedRegs (.ldVxK x) v) :
      Effect s (.ldVxK x) { s with v := v, lastPressed := none, pc := s.pc + 2 }
  | random {x : RegIdx} {kk : Byte} {v : Vector Byte 16} (kept : s.OnlyListedRegs (.rndVxByte x kk) v) :
      Effect s (.rndVxByte x kk) { s with v := v, draws := s.draws + 1, pc := s.pc + 2 }
  /-- LD B and LD [I]: memory stays canonical, and only the stored bytes change (R201). -/
  | store {i : Instr} {m : Memory} (canonical : s.memWf = true → { s with mem := m }.memWf = true)
      (outside : ∀ a, a < s.i.toNat ∨ s.i.toNat + storedBytes i ≤ a →
        { s with mem := m }.readByte a = s.readByte a) :
      Effect s i { s with mem := m, pc := s.pc + 2 }

/-! ### The registers an instruction leaves alone -/

theorem State.onlyListedRegs_self (s : State) (i : Instr) : s.OnlyListedRegs i s.v := fun _ _ => rfl

theorem State.onlyListedRegs_setReg {s : State} {i : Instr} {x : RegIdx} (b : Byte)
    (hw : ∀ r, writesReg s.params i r = (r == x)) : s.OnlyListedRegs i (s.setReg x b).v := fun r hr =>
  s.reg_setReg_ne b (ne_of_beq_false (hw r ▸ hr))

theorem State.onlyListedRegs_setFlag {s : State} {i : Instr} (c : Bool)
    (hw : ∀ r, writesReg s.params i r = (r == 15)) : s.OnlyListedRegs i (s.setFlag c).v :=
  s.onlyListedRegs_setReg (flagByte c) hw

theorem State.onlyListedRegs_flagThenResult {s : State} {i : Instr} {x : RegIdx} (c : Bool) (b : Byte)
    (hw : ∀ r, writesReg s.params i r = (r == x || r == 15)) :
    s.OnlyListedRegs i ((s.setFlag c).setReg x b).v := fun r hr => by
  obtain ⟨hx, hf⟩ := Bool.or_eq_false_iff.1 (hw r ▸ hr)
  exact ((s.setFlag c).reg_setReg_ne b (ne_of_beq_false hx)).trans (s.reg_setReg_ne _ (ne_of_beq_false hf))

theorem State.onlyListedRegs_loadRegs (s : State) (x : RegIdx) :
    s.OnlyListedRegs (.ldVxMem x) (s.loadRegs s.i.toNat (x.val + 1)).v := fun r hr => by
  have hrx : ¬ r ≤ x := of_decide_eq_false hr
  exact (s.reg_loadRegs _ _ x.isLt r).trans (if_neg fun h => hrx (Nat.le_of_lt_succ h))

/-! ### The shapes an arm of exec has -/

theorem Effect.of_setReg {s t : State} {i : Instr} {x : RegIdx} {b : Byte}
    (h : (s.setReg x b).finish .next = .next t) (hw : ∀ r, writesReg s.params i r = (r == x)) : Effect s i t := by
  cases h
  exact .registers (s.onlyListedRegs_setReg b hw) (.inr (.inl rfl))

theorem Effect.of_flagThenResult {s t : State} {i : Instr} {x : RegIdx} {c : Bool} {b : Byte}
    (h : s.flagThenResult x c b = .next t) (hw : ∀ r, writesReg s.params i r = (r == x || r == 15)) :
    Effect s i t := by
  cases h
  exact .registers (s.onlyListedRegs_flagThenResult c b hw) (.inr (.inl rfl))

theorem Effect.of_skip (s : State) (i : Instr) (c : Bool) : Effect s i (s.setPc (nextPc s.pc (.skip c))) :=
  .registers (s.onlyListedRegs_self i) (by cases c <;> simp [State.PcNear, nextPc])

theorem Effect.of_skipOnKey {s t : State} {i : Instr} {b : Byte} {wanted : Bool}
    (h : s.skipOnKey b wanted = .next t) : Effect s i t := by
  obtain ⟨c, rfl⟩ := State.skipOnKey_next h
  exact .of_skip s i c

/-- Everything LD F can do (R620). -/
theorem execLdFVx_cases (x : RegIdx) (s : State) :
    (∃ d, (s.reg x).toNat = d.val ∧ execLdFVx x s = (s.setI (glyphAddress d)).finish .next) ∨
    (15 < (s.reg x).toNat ∧ s.params.fontOor = .fault ∧
      execLdFVx x s = .fault (.operandOutOfRange (s.reg x))) ∨
    (15 < (s.reg x).toNat ∧ s.params.fontOor = .unchanged ∧ execLdFVx x s = s.finish .next) := by
  unfold execLdFVx
  by_cases h : (s.reg x).toNat < 16
  · exact .inl ⟨⟨_, h⟩, rfl, by rw [nibbleOf_val ⟨_, h⟩ _ rfl]⟩
  · rw [nibbleOf_none _ (by omega)]
    cases s.params.fontOor
    · exact .inr (.inl ⟨by omega, rfl, rfl⟩)
    · exact .inr (.inr ⟨by omega, rfl, rfl⟩)

theorem Effect.of_execLdFVx {s t : State} {x : RegIdx} (h : execLdFVx x s = .next t) : Effect s (.ldFVx x) t := by
  rcases execLdFVx_cases x s with ⟨d, _, e⟩ | ⟨_, _, e⟩ | ⟨_, _, e⟩ <;> rw [e] at h <;> cases h
  · exact .glyph
  · exact .registers (s.onlyListedRegs_self _) (.inr (.inl rfl))

theorem Effect.of_execAddIVx {s t : State} {x : RegIdx} (h : execAddIVx x s = .next t) :
    Effect s (.addIVx x) t := by
  unfold execAddIVx at h
  rcases (s.setI (s.i + zext16 (s.reg x))).setAddIFlag_cases s.i (s.reg x) with ⟨_, e⟩ | ⟨hp, e⟩ <;>
    rw [e] at h <;> cases h
  · exact .addI (s.onlyListedRegs_self _)
  · exact .addI (s.onlyListedRegs_setFlag _ fun r => by simp_all [writesReg])

theorem Effect.of_execDrwVxVyN {s t : State} {x y : RegIdx} {n : Nat} (h : execDrwVxVyN x y n s = .next t) :
    Effect s (.drwVxVyN x y n) t := by
  obtain ⟨_, hbody⟩ := State.withSpan_next h
  cases hbody
  exact .sprite (s.onlyListedRegs_setFlag _ fun _ => rfl)

theorem Effect.of_execLdVxK {s t : State} {x : RegIdx} (h : execLdVxK x s = .next t) : Effect s (.ldVxK x) t := by
  unfold execLdVxK at h
  split at h <;> cases h
  · exact .key (s.onlyListedRegs_setReg _ fun _ => rfl)
  · exact .registers (s.onlyListedRegs_self _) (.inl rfl)

/-- A state `u` that differs from `s` in memory alone, after which pc advances. -/
theorem Effect.of_stored {s u t : State} {i : Instr} (h : u.finish .next = .next t)
    (mem_only : u = { s with mem := u.mem }) (canonical : s.memWf = true → u.memWf = true)
    (outside : ∀ a, a < s.i.toNat ∨ s.i.toNat + storedBytes i ≤ a → u.readByte a = s.readByte a) :
    Effect s i t := by
  rw [mem_only] at h canonical outside
  cases h
  exact .store canonical outside

theorem Effect.of_execLdBVx {s t : State} {x : RegIdx} (h : execLdBVx x s = .next t) : Effect s (.ldBVx x) t := by
  obtain ⟨hspan, hbody⟩ := State.withSpan_next h
  exact .of_stored hbody (s.writeBytes_mem_only _ _)
    (s.memWf_writeBytes _ _ (hspan.resolve_left (by decide)))
    (fun a => s.readByte_writeBytes_outside s.i.toNat a (decimalDigits (s.reg x)))

theorem Effect.of_execLdMemVx {s t : State} {x : RegIdx} (h : execLdMemVx x s = .next t) :
    Effect s (.ldMemVx x) t := by
  obtain ⟨hspan, hbody⟩ := State.withSpan_next h
  exact .of_stored hbody (s.storeRegs_mem_only _ _)
    (s.memWf_storeRegs _ _ (hspan.resolve_left (by omega)))
    (fun a => s.readByte_storeRegs_outside _ a _)

theorem Effect.of_execLdVxMem {s t : State} {x : RegIdx} (h : execLdVxMem x s = .next t) :
    Effect s (.ldVxMem x) t := by
  obtain ⟨_, hbody⟩ := State.withSpan_next h
  rw [State.loadRegs_v_only] at hbody
  cases hbody
  exact .registers (s.onlyListedRegs_loadRegs x) (.inr (.inl rfl))

/-- Everything an execution that raises no fault does. -/
theorem exec_effect {i : Instr} {s t : State} (h : exec i s = .next t) : Effect s i t := by
  cases i with
  | cls => cases h; exact .clear
  | ret =>
    rcases s.popJump_cases with ⟨_, e⟩ | ⟨entry, e⟩ <;> cases e.symm.trans h
    exact .ret entry
  | jpAddr nnn => cases h; exact .jump
  | callAddr nnn =>
    rcases s.pushJump_cases (s.pc + 2) nnn with ⟨_, e⟩ | ⟨room, e⟩ <;> cases e.symm.trans h
    exact .call room
  | seVxByte x kk | sneVxByte x kk => cases h; exact .of_skip s _ _
  | seVxVy x y | sneVxVy x y => cases h; exact .of_skip s _ _
  | ldVxByte x kk | addVxByte x kk => exact .of_setReg h fun _ => rfl
  | ldVxVy x y | orVxVy x y | andVxVy x y | xorVxVy x y => exact .of_setReg h fun _ => rfl
  | addVxVy x y | subVxVy x y | subnVxVy x y => exact .of_flagThenResult h fun _ => rfl
  | shrVx x | shlVx x => exact .of_flagThenResult h fun _ => rfl
  | ldIAddr nnn => cases h; exact .loadI
  | jpV0Addr nnn => cases h; exact .jumpV0
  | rndVxByte x kk => cases h; exact .random (s.onlyListedRegs_setReg _ fun _ => rfl)
  | drwVxVyN x y n => exact .of_execDrwVxVyN h
  | skpVx x | sknpVx x => exact .of_skipOnKey h
  | ldVxDt x => exact .of_setReg h fun _ => rfl
  | ldVxK x => exact .of_execLdVxK h
  | ldDtVx x => cases h; exact .delay
  | ldStVx x => cases h; exact .sound
  | addIVx x => exact .of_execAddIVx h
  | ldFVx x => exact .of_execLdFVx h
  | ldBVx x => exact .of_execLdBVx h
  | ldMemVx x => exact .of_execLdMemVx h
  | ldVxMem x => exact .of_execLdVxMem h

/-! ## Frames -/

theorem Effect.reg_eq {i : Instr} {s t : State} (he : Effect s i t) {r : RegIdx}
    (hr : writesReg s.params i r = false) : t.reg r = s.reg r := by
  cases he with
  | registers kept | addI kept | sprite kept | key kept | random kept => exact kept r hr
  | _ => rfl

/-! ## The invariant -/

section
variable {s : State} (hs : Inv s)
include hs

/-- The invariant speaks of pc, the stack, memory, the grid and what was emitted alone. -/
theorem Inv.withOthers {v : Vector Byte 16} {i pc : Word} {dt st : Byte} {keys : Vector Bool 16}
    {last : Option KeyIdx} {run : RunState} {draws : Nat} (hpc : pc.toNat ≤ 0x10FE) :
    Inv { s with v := v, i := i, pc := pc, dt := dt, st := st, keys := keys, lastPressed := last, run := run,
                 draws := draws } where
  memCanonical := hs.memCanonical
  stackBound := hs.stackBound
  pcBound := hpc
  returnsBound := hs.returnsBound
  shown := hs.shown

theorem Inv.withMem {m : Memory} (canonical : { s with mem := m }.memWf = true) : Inv { s with mem := m } where
  memCanonical := canonical
  stackBound := hs.stackBound
  pcBound := hs.pcBound
  returnsBound := hs.returnsBound
  shown := hs.shown

theorem Inv.of_mem_only {t : State} (mem_only : t = { s with mem := t.mem }) (canonical : t.memWf = true) :
    Inv t := by
  rw [mem_only] at canonical ⊢
  exact hs.withMem canonical

theorem Inv.withShown (g : Framebuffer) : Inv { s with fb := g, displayOut := g :: s.displayOut } where
  memCanonical := hs.memCanonical
  stackBound := hs.stackBound
  pcBound := hs.pcBound
  returnsBound := hs.returnsBound
  shown := rfl

theorem Inv.pushed {w : Word} (room : s.sp.val < s.params.stackDepth.toNat) (hw : w.toNat ≤ 0x1000) :
    Inv (s.pushed w) where
  memCanonical := hs.memCanonical
  stackBound := by
    have hdepth := StackDepth_toNat_le s.params.stackDepth
    rw [s.pushed_sp_val w (by omega)]
    exact room
  pcBound := hs.pcBound
  returnsBound k := by
    rw [s.pushed_stack_getElem]
    split
    · exact hw
    · exact hs.returnsBound k
  shown := hs.shown

theorem Inv.popped : Inv s.popped where
  memCanonical := hs.memCanonical
  stackBound := by
    rw [s.popped_sp_val]
    exact (Nat.sub_le _ _).trans hs.stackBound
  pcBound := hs.pcBound
  returnsBound := hs.returnsBound
  shown := hs.shown

theorem Inv.setPc {w : Word} (hw : w.toNat ≤ 0x10FE) : Inv (s.setPc w) := hs.withOthers hw

theorem Inv.top_le : s.top.toNat ≤ 0x1000 := hs.returnsBound _

end

/-! ### One step -/

theorem State.PcNear.toNat_le {s : State} {pc : Word} (near : s.PcNear pc) (hpc : s.pc.toNat ≤ 0xFFE) :
    pc.toNat ≤ 0x1002 := by
  rcases near with rfl | rfl | rfl <;> bv_omega

theorem toNat_lt_of_addrFits {nnn : Word} (h : addrFits nnn = true) : nnn.toNat < 0x1000 := of_decide_eq_true h

/-- The highest pc of R105: the highest address plus the highest V0. -/
theorem toNat_jumpV0_le {nnn : Word} (h : addrFits nnn = true) (b : Byte) : (nnn + zext16 b).toNat ≤ 0x10FE := by
  have hnnn := toNat_lt_of_addrFits h
  have hb := b.isLt
  simp only [zext16, BitVec.toNat_add, BitVec.toNat_setWidth]
  omega

/-- What an instruction leaves meets the invariant, where the fetch could read it and the decoder could give it. -/
theorem Effect.keeps_inv {i : Instr} {s t : State} (he : Effect s i t) (hs : Inv s) (hpc : s.pc.toNat ≤ 0xFFE)
    (hi : i.wellFormed = true) : Inv t := by
  have hret : (s.pc + 2).toNat ≤ 0x1000 := by bv_omega
  have hnext : (s.pc + 2).toNat ≤ 0x10FE := by omega
  cases he with
  | registers _ near => exact hs.withOthers ((near.toNat_le hpc).trans (by decide))
  | jump => exact hs.setPc ((toNat_lt_of_addrFits hi).le.trans (by decide))
  | jumpV0 => exact hs.setPc (toNat_jumpV0_le hi _)
  | call room => exact (hs.pushed room hret).setPc ((toNat_lt_of_addrFits hi).le.trans (by decide))
  | ret => exact hs.popped.setPc (hs.top_le.trans (by decide))
  | clear | sprite => exact (hs.withShown _).withOthers hnext
  | store canonical => exact (hs.withMem (canonical hs.memCanonical)).setPc hnext
  | loadI | addI | glyph | delay | sound | key | random => exact hs.withOthers hnext

theorem step_keeps_inv {s t : State} (hs : Inv s) (h : step s = .next t) : Inv t := by
  rcases step_cases s with ⟨_, e⟩ | ⟨_, _, e⟩ | ⟨_, _, w, _, e⟩ | ⟨_, hpc, i, hd, e⟩ <;> rw [e] at h
  · cases h
  · cases h
  · cases h
  · exact (exec_effect h).keeps_inv hs (by omega) (decode_wellFormed hd)

/-! ### Host events and runs -/

theorem Inv.whileRunning {s t : State} (hs : Inv s) (ht : Inv t) : Inv (s.whileRunning t) := by
  by_cases h : s.run = .running
  · rwa [s.whileRunning_running t h]
  · rwa [s.whileRunning_ended t h]

theorem Inv.apply {s : State} (hs : Inv s) (e : HostEvent) : Inv (s.apply e) := by
  cases e with
  | step =>
    rcases s.apply_step_cases with ⟨t, h, e⟩ | ⟨f, _, e⟩ | ⟨_, _, e⟩ <;> rw [e]
    · exact step_keeps_inv hs h
    · exact hs.withOthers hs.pcBound
    · exact hs
  | tick => exact hs.whileRunning (hs.withOthers hs.pcBound)
  | keysIn keys last => exact hs.whileRunning (hs.withOthers hs.pcBound)
  | terminate => exact hs.whileRunning (hs.withOthers hs.pcBound)

theorem Inv.applyAll {s : State} (hs : Inv s) (es : List HostEvent) : Inv (s.applyAll es) := by
  induction es generalizing s with
  | nil => exact hs
  | cons e es ih => exact ih (hs.apply e)

theorem inv_resetWith (p : Params) : Inv (State.resetWith p) where
  memCanonical := rfl
  stackBound := Nat.zero_le _
  pcBound := show (0x200 : Word).toNat ≤ 0x10FE by decide
  returnsBound k := by simp [State.resetWith]
  shown := rfl

/-- The image ends at 0xFFF: 0x200 + 3584 = 0x1000 (R1003). -/
theorem inv_construct (p : Params) (image : List Byte) : Inv (State.construct p image) := by
  have hreset := inv_resetWith p
  have hlen : 0x200 + (image.take 3584).length ≤ 0x1000 := by rw [List.length_take]; omega
  exact hreset.of_mem_only (State.load_mem_only _ image) (State.memWf_writeBytes _ _ _ hlen hreset.memCanonical)

/-! ## What no execution reads: the call stack but for CALL and RET, the grids emitted -/

/-- The answer with another next state. -/
def mapNext (f : State → State) : Result → Result
  | .next t => .next (f t)
  | .fault e => .fault e
  | .refused r => .refused r

/-- `s` with another call stack and another list of emitted grids. -/
def State.withUnread (s : State) (sp : Fin 17) (stack : Vector Word 16) (out : List Framebuffer) : State :=
  { s with sp := sp, stack := stack, displayOut := out }

/-- What an instruction that leaves `t` has put on `display_out` (R131). -/
def emittedBy (i : Instr) (t : State) : List Framebuffer :=
  match i with
  | .cls => [t.fb]
  | .drwVxVyN _ _ _ => [t.fb]
  | _ => []

theorem emittedBy_eq_nil {i : Instr} {t : State} (hcls : i ≠ .cls) (hdrw : ∀ x y n, i ≠ .drwVxVyN x y n) :
    emittedBy i t = [] := by
  unfold emittedBy
  split
  · exact absurd rfl hcls
  · exact absurd rfl (hdrw _ _ _)
  · rfl

section
variable (s : State) (sp : Fin 17) (stack : Vector Word 16) (out : List Framebuffer)

@[simp] theorem State.withUnread_i : (s.withUnread sp stack out).i = s.i := rfl
@[simp] theorem State.withUnread_lastPressed : (s.withUnread sp stack out).lastPressed = s.lastPressed := rfl
@[simp] theorem State.withUnread_params : (s.withUnread sp stack out).params = s.params := rfl
@[simp] theorem State.withUnread_reg (x : RegIdx) : (s.withUnread sp stack out).reg x = s.reg x := rfl
@[simp] theorem State.withUnread_readByte (a : Nat) : (s.withUnread sp stack out).readByte a = s.readByte a := rfl

@[simp] theorem State.withUnread_readBytes (a n : Nat) :
    (s.withUnread sp stack out).readBytes a n = s.readBytes a n := by
  induction n generalizing a with
  | zero => rfl
  | succ n ih => simp [State.readBytes, ih]

@[simp] theorem State.withUnread_writeBytes (a : Nat) (bs : List Byte) :
    (s.withUnread sp stack out).writeBytes a bs = (s.writeBytes a bs).withUnread sp stack out := by
  induction bs generalizing s a with
  | nil => rfl
  | cons b bs ih => exact ih (s.writeByte a b) (a + 1)

@[simp] theorem State.withUnread_storeRegs (a n : Nat) :
    (s.withUnread sp stack out).storeRegs a n = (s.storeRegs a n).withUnread sp stack out := by
  induction n with
  | zero => rfl
  | succ n ih => simp only [State.storeRegs, ih]; rfl

@[simp] theorem State.withUnread_loadRegs (a n : Nat) :
    (s.withUnread sp stack out).loadRegs a n = (s.loadRegs a n).withUnread sp stack out := by
  induction n with
  | zero => rfl
  | succ n ih => simp only [State.loadRegs, ih]; rfl

theorem State.withUnread_withSpan {f : State → State} (len : Nat) {body body' : Result} (h : body' = mapNext f body) :
    (s.withUnread sp stack out).withSpan len body' = mapNext f (s.withSpan len body) := by
  unfold State.withSpan
  rw [State.withUnread_i]
  split
  · rfl
  · exact h

theorem State.withUnread_skipOnKey (b : Byte) (wanted : Bool) :
    (s.withUnread sp stack out).skipOnKey b wanted =
      mapNext (·.withUnread sp stack out) (s.skipOnKey b wanted) := by
  unfold State.skipOnKey
  rw [State.withUnread_params]
  split <;> rfl

theorem execLdFVx_withUnread (x : RegIdx) :
    execLdFVx x (s.withUnread sp stack out) = mapNext (·.withUnread sp stack out) (execLdFVx x s) := by
  unfold execLdFVx
  rw [State.withUnread_params, State.withUnread_reg]
  split <;> rfl

theorem execAddIVx_withUnread (x : RegIdx) :
    execAddIVx x (s.withUnread sp stack out) = mapNext (·.withUnread sp stack out) (execAddIVx x s) := by
  unfold execAddIVx State.setAddIFlag
  cases h : s.params.addIVf <;> simp [h] <;> rfl

theorem execLdVxK_withUnread (x : RegIdx) :
    execLdVxK x (s.withUnread sp stack out) = mapNext (·.withUnread sp stack out) (execLdVxK x s) := by
  unfold execLdVxK
  rw [State.withUnread_lastPressed]
  split <;> rfl

/-- No execution reads the list of emitted grids, and none but CALL and RET the call stack (R123). -/
theorem exec_withUnread {i : Instr} (hret : i ≠ .ret) (hcall : ∀ nnn, i ≠ .callAddr nnn) :
    exec i (s.withUnread sp stack out) =
      mapNext (fun t => t.withUnread sp stack (emittedBy i t ++ out)) (exec i s) := by
  cases i with
  | ret => exact absurd rfl hret
  | callAddr nnn => exact absurd rfl (hcall nnn)
  | skpVx x | sknpVx x => exact s.withUnread_skipOnKey sp stack out _ _
  | addIVx x => exact execAddIVx_withUnread s sp stack out x
  | ldFVx x => exact execLdFVx_withUnread s sp stack out x
  | ldVxK x => exact execLdVxK_withUnread s sp stack out x
  | drwVxVyN x y n =>
    refine s.withUnread_withSpan sp stack out n ?_
    simp only [State.spriteDrawn, State.withUnread_readBytes, State.withUnread_i]
    rfl
  | ldBVx x =>
    refine s.withUnread_withSpan sp stack out _ ?_
    rw [State.withUnread_writeBytes]
    rfl
  | ldMemVx x =>
    refine s.withUnread_withSpan sp stack out _ ?_
    rw [State.withUnread_storeRegs]
    rfl
  | ldVxMem x =>
    refine s.withUnread_withSpan sp stack out _ ?_
    rw [State.withUnread_loadRegs]
    rfl
  | _ => rfl
end

section
variable {s t : State} {i : Instr}

/-- An execution keeps what it does not read: the case of `exec_withUnread` where nothing is replaced. -/
theorem exec_unread_kept (hret : i ≠ .ret) (hcall : ∀ nnn, i ≠ .callAddr nnn) (h : exec i s = .next t) :
    t.sp = s.sp ∧ t.stack = s.stack ∧ t.displayOut = emittedBy i t ++ s.displayOut := by
  have self := exec_withUnread s s.sp s.stack s.displayOut hret hcall
  rw [h] at self
  have ht : t = t.withUnread s.sp s.stack (emittedBy i t ++ s.displayOut) :=
    Host.Outcome.next.inj (h.symm.trans self)
  exact ⟨(congrArg State.sp ht :), (congrArg State.stack ht :), (congrArg State.displayOut ht :)⟩

/-- No execution reads the list of emitted grids; CALL and RET are the two that `exec_withUnread` leaves out. -/
theorem exec_withDisplayOut (i : Instr) (s : State) (out : List Framebuffer) :
    exec i { s with displayOut := out } =
      mapNext (fun t => { t with displayOut := emittedBy i t ++ out }) (exec i s) := by
  by_cases hret : i = .ret
  · subst hret
    show State.popJump _ = mapNext _ s.popJump
    unfold State.popJump
    split <;> rfl
  by_cases hcall : ∃ nnn, i = .callAddr nnn
  · obtain ⟨nnn, rfl⟩ := hcall
    show State.pushJump _ _ _ = mapNext _ (s.pushJump _ _)
    unfold State.pushJump
    split <;> rfl
  have hcall' : ∀ nnn, i ≠ .callAddr nnn := fun nnn e => hcall ⟨nnn, e⟩
  refine (exec_withUnread s s.sp s.stack out hret hcall').trans ?_
  cases h : exec i s with
  | next t =>
    obtain ⟨hsp, hstack, _⟩ := exec_unread_kept hret hcall' h
    rw [mapNext, ← hsp, ← hstack]
    rfl
  | fault f => rfl
  | refused r => rfl

/-- What is on the list after an execution is what the instruction emitted, on top of what was there (R131). -/
theorem exec_displayOut (h : exec i s = .next t) : t.displayOut = emittedBy i t ++ s.displayOut := by
  have self := exec_withDisplayOut i s s.displayOut
  rw [h] at self
  exact congrArg State.displayOut (Host.Outcome.next.inj self)

end

/-! ## Timers -/

theorem toNat_countDown (b : Byte) : (countDown b).toNat = if 0 < b.toNat then b.toNat - 1 else 0 := by
  unfold countDown
  split <;> split <;> bv_omega

theorem Effect.dt_eq {i : Instr} {s t : State} (he : Effect s i t) :
    t.dt = s.dt ∨ ∃ x, i = .ldDtVx x ∧ t.dt = s.reg x := by
  cases he with
  | delay => exact .inr ⟨_, rfl, rfl⟩
  | _ => exact .inl rfl

theorem Effect.st_eq {i : Instr} {s t : State} (he : Effect s i t) :
    t.st = s.st ∨ ∃ x, i = .ldStVx x ∧ t.st = s.reg x := by
  cases he with
  | sound => exact .inr ⟨_, rfl, rfl⟩
  | _ => exact .inl rfl

/-! ## The obligations -/

/-- Settles O20: a step that answers a next state executed a decoded instruction, whose effect keeps each clause. -/
theorem stepKeepsTheMachineInvariant : Obligations.StepKeepsTheMachineInvariant :=
  fun _ _ => step_keeps_inv

/-- Settles O21, the runs by induction on the list of events. -/
theorem eventsKeepTheMachineInvariant : Obligations.EventsKeepTheMachineInvariant :=
  ⟨fun _ e hs => hs.apply e, fun p image es => (inv_construct p image).applyAll es⟩

/-- Settles O15: `countDown` saturates, and only the effects of LD DT and LD ST write a timer, from a register. -/
theorem tickDecrementsSaturating : Obligations.TickDecrementsSaturating := by
  refine ⟨fun s hrun => ?_, fun i s t h => ⟨(exec_effect h).dt_eq, (exec_effect h).st_eq⟩⟩
  have tick_eq : s.apply .tick = { s with dt := countDown s.dt, st := countDown s.st } :=
    s.whileRunning_running _ hrun
  rw [tick_eq]
  exact ⟨rfl, toNat_countDown s.dt, toNat_countDown s.st⟩

/-- Settles O23: every effect that writes registers keeps those the instruction does not list. -/
theorem onlyListedRegistersChange : Obligations.OnlyListedRegistersChange :=
  fun _ _ _ _ h => (exec_effect h).reg_eq

/-- Settles O25: replacing SP and the slots commutes with every execution but CALL's and RET's. -/
theorem onlyCallAndRetUseTheStack : Obligations.OnlyCallAndRetUseTheStack := by
  intro i s sp stack hret hcall
  have same := exec_withUnread s sp stack s.displayOut hret hcall
  cases h : exec i s with
  | next t =>
    obtain ⟨hsp, hstack, hout⟩ := exec_unread_kept hret hcall h
    rw [h, mapNext, ← hout] at same
    exact ⟨hsp, hstack, same⟩
  | fault f => rwa [h] at same
  | refused r => rwa [h] at same

/-- Settles O26: replacing the list of emitted grids commutes with every execution. -/
theorem displayUpdateAfterClearAndDraw : Obligations.DisplayUpdateAfterClearAndDraw := by
  intro i s t out h
  have emitted := exec_displayOut h
  refine ⟨?_, fun ⟨hcls, hdrw⟩ => ?_, _, (exec_withDisplayOut i s out).trans (by rw [h]; rfl), rfl⟩
  · rintro (rfl | ⟨x, y, n, rfl⟩) <;> exact emitted
  · rwa [emittedBy_eq_nil hcls hdrw] at emitted

/-- Settles O27: an effect that writes a field carries the instruction named for it, and every other keeps it. -/
theorem fieldsChangeOnlyByTheirInstructions : Obligations.FieldsChangeOnlyByTheirInstructions := by
  intro i s t h
  cases exec_effect h <;> simp

end Sys2Proof.Machine
end

section
/-!
PROOF. Memory (spec/20_memory.md): the fetched word in R202's form, the bytes an execution leaves alone (R201), and the
bound checked before every access (R210, R211).
-/
namespace Sys2Proof.Machine

/-! ## The fetched word (R202) -/

/-- `MemRead(a, 2)`'s word in the form R202 writes it. -/
theorem wordOfBytes_eq_shiftLeft_or (high low : Byte) :
    wordOfBytes high low = (high.setWidth 16 <<< 8) ||| low.setWidth 16 := by
  rw [wordOfBytes, BitVec.append_def, BitVec.shiftLeftZeroExtend_eq, BitVec.setWidth'_eq]

/-! ## What an execution leaves alone (R201) -/

theorem Effect.readByte_eq {i : Instr} {s t : State} (he : Effect s i t) {a : Nat}
    (outside : a < s.i.toNat ∨ s.i.toNat + storedBytes i ≤ a) : t.readByte a = s.readByte a := by
  cases he with
  | store _ kept => exact kept a outside
  | _ => rfl

/-! ## The bound of an access (R210, R211) -/

/-- The four instructions that touch bytes check the whole range before anything else. -/
theorem exec_outOfBounds {i : Instr} {s : State} (h : ¬ s.spanInBounds (touchedBytes i)) :
    exec i s = .fault (.outOfBounds (max s.i.toNat 0x1000)) := by
  have faults (body : Result) : s.withSpan (touchedBytes i) body = .fault (.outOfBounds (max s.i.toNat 0x1000)) := by
    obtain ⟨inBounds, _⟩ | ⟨_, e⟩ := s.withSpan_cases (touchedBytes i) body
    · exact absurd inBounds h
    · exact e
  cases i with
  | drwVxVyN x y n => exact faults _
  | ldBVx x | ldMemVx x | ldVxMem x => exact faults _
  | _ => exact absurd (.inl rfl) h

/-! ## The obligations -/

/-- Settles O8: the two bytes at pc make the word in R202's form, and a step in bounds decodes that word. -/
theorem fetchedWordIsBigEndian : Obligations.FetchedWordIsBigEndian := by
  intro s hrun hpc
  have hword := wordOfBytes_eq_shiftLeft_or (s.readByte s.pc.toNat) (s.readByte (s.pc.toNat + 1))
  rw [← hword, ← State.readWord]
  rcases step_cases s with ⟨ended, _⟩ | ⟨_, above, _⟩ | ⟨_, _, w, hd, e⟩ | ⟨_, _, i, hd, e⟩
  · exact absurd hrun ended
  · omega
  · rw [e, hd]
  · rw [e, hd]

/-- Settles O24: the one effect that writes memory keeps what is outside the stored bytes. -/
theorem memoryChangesOnlyWhereStored : Obligations.MemoryChangesOnlyWhereStored :=
  fun _ _ _ h _ => (exec_effect h).readByte_eq

/-- Settles O31: the lowest touched address above 0xFFF is I itself, or 0x1000 where I is below it. -/
theorem outOfBoundsNamesTheLowestAddress : Obligations.OutOfBoundsNamesTheLowestAddress := by
  rintro i s ⟨k, hk, hbad⟩
  have hexec : exec i s = .fault (.outOfBounds (max s.i.toNat 0x1000)) :=
    exec_outOfBounds (by unfold State.spanInBounds; omega)
  refine ⟨max s.i.toNat 0x1000, hexec, by omega, ⟨max s.i.toNat 0x1000 - s.i.toNat, by omega, by omega⟩,
    fun k' _ hbad' => by omega, ?_⟩
  rw [hexec]
  rfl

end Sys2Proof.Machine
end

section
/-!
PROOF. Encoding (spec/30_encoding.md): the fields of a masked word, the rows of the opcode map read against each other and
against the decoder, the decoder's branches read against the rows, and the statements about the decoder from these.
-/
namespace Sys2Proof

/-! ## The fields of a masked word (R301, R320) -/

section
variable {w m p : Word} {op n : BitVec 4} {kk : Byte}

theorem packXYN_fields (w : Word) : packXYN (opField w) (xField w) (yField w) (nField w) = w := by
  have := w.isLt
  apply BitVec.eq_of_toNat_eq
  rw [toNat_packXYN, toNat_opField, val_xField, val_yField, toNat_nField]
  omega

theorem packXKk_fields (w : Word) : packXKk (opField w) (xField w) (kkField w) = w := by
  have := w.isLt
  apply BitVec.eq_of_toNat_eq
  rw [toNat_packXKk, toNat_opField, val_xField, toNat_kkField]
  omega

theorem and_F000_of_opField (hop : opField w = op) : w &&& 0xF000 = packXYN op 0 0 0 := by
  rw [← packXYN_fields w, packXYN_and_F000, hop]

theorem and_F00F_of_fields (hop : opField w = op) (hn : nField w = n) : w &&& 0xF00F = packXYN op 0 0 n := by
  rw [← packXYN_fields w, packXYN_and_F00F, hop, hn]

theorem and_F0FF_of_fields (hop : opField w = op) (hkk : kkField w = kk) : w &&& 0xF0FF = packXKk op 0 kk := by
  rw [← packXKk_fields w, packXKk_and_F0FF, hop, hkk]

theorem and_FFFF (w : Word) : w &&& 0xFFFF = w := BitVec.and_allOnes

/-- A mask that keeps the leading nibble fixes it. -/
theorem opField_eq_of_and (h : w &&& m = p) (hm : opField m = 0xF#4) : opField w = opField p := by
  rw [← h, opField, opField, BitVec.extractLsb'_and, ← opField, ← opField, hm, and_allOnes4]

theorem nField_eq_of_and (h : w &&& m = p) (hm : nField m = 0xF#4) : nField w = nField p := by
  rw [← h, nField, nField, BitVec.extractLsb'_and, ← nField, ← nField, hm, and_allOnes4]

theorem kkField_eq_of_and (h : w &&& m = p) (hm : kkField m = 0xFF#8) : kkField w = kkField p := by
  rw [← h, kkField, kkField, BitVec.extractLsb'_and, ← kkField, ← kkField, hm, and_allOnes8]

end

/-! ## No two rows of the opcode map fit one word (R320) -/

section
variable {strict : Bool} {w : Word}

theorem OpcodeRow.fits_iff {r : OpcodeRow} : r.fits strict w = true ↔ w &&& r.maskAt strict = r.patternAt strict :=
  beq_iff_eq

theorem plainRow_fits_iff {mnemonic : String} {pattern mask : Word} {build : Word → Instr} :
    (plainRow mnemonic pattern mask build).fits strict w = true ↔ w &&& mask = pattern := by
  cases strict <;> exact beq_iff_eq

/-- The two rows differ in a bit that both their masks keep. -/
def OpcodeRow.clashes (strict : Bool) (q r : OpcodeRow) : Prop :=
  q.patternAt strict &&& r.maskAt strict ≠ r.patternAt strict &&& q.maskAt strict

theorem OpcodeRow.not_clashes_of_fits {q r : OpcodeRow} (hq : q.fits strict w = true) (hr : r.fits strict w = true) :
    ¬ q.clashes strict r := by
  rw [OpcodeRow.fits_iff] at hq hr
  intro clash
  apply clash
  rw [← hq, ← hr, BitVec.and_assoc, BitVec.and_assoc, BitVec.and_comm (q.maskAt strict)]

theorem opcodeMap_pairwise_clashes (strict : Bool) : opcodeMap.Pairwise (OpcodeRow.clashes strict) := by
  unfold OpcodeRow.clashes
  cases strict <;> decide

theorem opcodeMap_fits_unique {j k : Nat} {q r : OpcodeRow} (hj : opcodeMap[j]? = some q) (hk : opcodeMap[k]? = some r)
    (hq : q.fits strict w = true) (hr : r.fits strict w = true) : j = k := by
  obtain ⟨hj', rfl⟩ := List.getElem?_eq_some_iff.mp hj
  obtain ⟨hk', rfl⟩ := List.getElem?_eq_some_iff.mp hk
  have apart := List.pairwise_iff_getElem.mp (opcodeMap_pairwise_clashes strict)
  rcases Nat.lt_trichotomy j k with lt | eq | gt
  · exact absurd (apart j k hj' hk' lt) (OpcodeRow.not_clashes_of_fits hq hr)
  · exact eq
  · exact absurd (apart k j hk' hj' gt) (OpcodeRow.not_clashes_of_fits hr hq)

/-! ## The families of the decoder (R321 to R325) -/

theorem decode_family0 (hop : opField w = 0x0#4) : decode strict w = decodeFamily0 strict w := by
  rw [decode, hop]
  rfl

theorem decode_family5 (hop : opField w = 0x5#4) :
    decode strict w = decodeRegPair strict w (.seVxVy (xField w) (yField w)) := by
  rw [decode, hop]
  rfl

theorem decode_family8 (hop : opField w = 0x8#4) : decode strict w = decodeFamily8 w := by
  rw [decode, hop]
  rfl

theorem decode_family9 (hop : opField w = 0x9#4) :
    decode strict w = decodeRegPair strict w (.sneVxVy (xField w) (yField w)) := by
  rw [decode, hop]
  rfl

theorem decode_familyE (hop : opField w = 0xE#4) : decode strict w = decodeFamilyE w := by
  rw [decode, hop]
  rfl

theorem decode_familyF (hop : opField w = 0xF#4) : decode strict w = decodeFamilyF w := by
  rw [decode, hop]
  rfl

theorem decodeRegPair_eq_instr (hn : strict = true → nField w = 0x0#4) (i : Instr) :
    decodeRegPair strict w i = .instr i := by
  cases strict with
  | false => rfl
  | true => rw [decodeRegPair, hn rfl]; rfl

theorem decodeFamily0_eq_error (h0 : nField w ≠ 0x0#4) (hE : nField w ≠ 0xE#4) :
    decodeFamily0 strict w = .decodeError w := by
  unfold decodeFamily0
  split
  case h_1 hn | h_3 hn => exact absurd hn h0
  case h_2 hn | h_4 hn => exact absurd hn hE
  case h_5 => rfl

/-! ## A word that fits a row decodes to that row's instruction (R320) -/

/-- The mask of a row fixes the fields the decoder looks at; only rows CLS, RET and the register pairs have another mask
when strict (R321, R322). -/
theorem decode_of_fits_rows1to9 :
    ∀ row ∈ opcodeRows1to9, row.fits strict w = true → decode strict w = .instr (row.build w) := by
  simp only [opcodeRows1to9, List.forall_mem_cons, plainRow_fits_iff]
  refine ⟨fun h => ?cls, fun h => ?ret, ?_, ?_, ?_, ?_, fun h => ?seVxVy, ?_, ?_, List.forall_mem_nil _⟩
  case cls | ret =>
    rw [OpcodeRow.fits_iff] at h
    cases strict with
    | false =>
      rw [decode_family0 (opField_eq_of_and h rfl)]
      unfold decodeFamily0
      rw [nField_eq_of_and h rfl]
      rfl
    | true =>
      rw [(and_FFFF w).symm.trans h]
      rfl
  case seVxVy =>
    rw [OpcodeRow.fits_iff] at h
    cases strict with
    | false => exact decode_family5 (opField_eq_of_and h rfl)
    | true =>
      exact (decode_family5 (opField_eq_of_and h rfl)).trans
        (decodeRegPair_eq_instr (fun _ => nField_eq_of_and h rfl) _)
  all_goals
    intro h
    rw [decode, opField_eq_of_and h rfl]
    rfl

theorem decode_of_fits_rows10to18 :
    ∀ row ∈ opcodeRows10to18, row.fits strict w = true → decode strict w = .instr (row.build w) := by
  simp only [opcodeRows10to18, List.forall_mem_cons, plainRow_fits_iff]
  refine ⟨?_, ?_, ?_, ?_, ?_, ?_, ?_, ?_, ?_, List.forall_mem_nil _⟩
  all_goals
    intro h
    rw [decode_family8 (opField_eq_of_and h rfl), decodeFamily8, nField_eq_of_and h rfl]
    rfl

theorem decode_of_fits_rows19to25 :
    ∀ row ∈ opcodeRows19to25, row.fits strict w = true → decode strict w = .instr (row.build w) := by
  simp only [opcodeRows19to25, List.forall_mem_cons, plainRow_fits_iff]
  refine ⟨fun h => ?sneVxVy, ?_, ?_, ?_, ?_, fun h => ?skpVx, fun h => ?sknpVx, List.forall_mem_nil _⟩
  case sneVxVy =>
    rw [OpcodeRow.fits_iff] at h
    cases strict with
    | false => exact decode_family9 (opField_eq_of_and h rfl)
    | true =>
      exact (decode_family9 (opField_eq_of_and h rfl)).trans
        (decodeRegPair_eq_instr (fun _ => nField_eq_of_and h rfl) _)
  case skpVx | sknpVx =>
    rw [decode_familyE (opField_eq_of_and h rfl), decodeFamilyE, kkField_eq_of_and h rfl]
    rfl
  all_goals
    intro h
    rw [decode, opField_eq_of_and h rfl]
    rfl

theorem decode_of_fits_rows26to34 :
    ∀ row ∈ opcodeRows26to34, row.fits strict w = true → decode strict w = .instr (row.build w) := by
  simp only [opcodeRows26to34, List.forall_mem_cons, plainRow_fits_iff]
  refine ⟨?_, ?_, ?_, ?_, ?_, ?_, ?_, ?_, ?_, List.forall_mem_nil _⟩
  all_goals
    intro h
    rw [decode_familyF (opField_eq_of_and h rfl), decodeFamilyF, kkField_eq_of_and h rfl]
    rfl

theorem decode_of_fits {row : OpcodeRow} (hmem : row ∈ opcodeMap) (h : row.fits strict w = true) :
    decode strict w = .instr (row.build w) := by
  simp only [opcodeMap, List.mem_append] at hmem
  obtain ((hmem | hmem) | hmem) | hmem := hmem
  · exact decode_of_fits_rows1to9 row hmem h
  · exact decode_of_fits_rows10to18 row hmem h
  · exact decode_of_fits_rows19to25 row hmem h
  · exact decode_of_fits_rows26to34 row hmem h

/-! ## A word that decodes to an instruction fits a row (R320 to R325) -/

/-- Some row of the opcode map fits the word. -/
def FitsARow (strict : Bool) (w : Word) : Prop := ∃ row ∈ opcodeMap, row.fits strict w = true

/-- A row whose mask keeps only bits that `m` keeps fits `w` where it fits the masked word. -/
theorem fitsARow_of_and {m p : Word} (h : w &&& m = p)
    (hrow : ∃ row ∈ opcodeMap, m &&& row.maskAt strict = row.maskAt strict ∧ row.fits strict p = true) :
    FitsARow strict w := by
  obtain ⟨row, hmem, hmask, hfits⟩ := hrow
  refine ⟨row, hmem, ?_⟩
  rw [OpcodeRow.fits_iff] at hfits ⊢
  rw [← hfits, ← h, BitVec.and_assoc, hmask]

/-- Where a branch answers an instruction, the fields that lead to it are those the row's mask keeps. -/
theorem decodeFamily0_eq_error_or_fitsARow (hop : opField w = 0x0#4) :
    decodeFamily0 strict w = .decodeError w ∨ FitsARow strict w := by
  unfold decodeFamily0
  split
  case h_1 hn | h_2 hn => exact .inr (fitsARow_of_and (and_F00F_of_fields hop hn) (by decide))
  case h_3 | h_4 =>
    split
    case isTrue h => exact .inr (fitsARow_of_and ((and_FFFF w).trans h) (by decide))
    case isFalse => exact .inl rfl
  case h_5 => exact .inl rfl

theorem decodeRegPair_eq_error_or_fitsARow (hop : opField w = 0x5#4 ∨ opField w = 0x9#4) (i : Instr) :
    decodeRegPair strict w i = .decodeError w ∨ FitsARow strict w := by
  unfold decodeRegPair
  cases strict with
  | false => obtain hop | hop := hop <;> exact .inr (fitsARow_of_and (and_F000_of_opField hop) (by decide))
  | true =>
    by_cases hn : nField w = 0x0#4
    · obtain hop | hop := hop <;> exact .inr (fitsARow_of_and (and_F00F_of_fields hop hn) (by decide))
    · exact .inl (if_pos (by simpa using hn))

theorem decodeFamily8_eq_error_or_fitsARow (hop : opField w = 0x8#4) :
    decodeFamily8 w = .decodeError w ∨ FitsARow strict w := by
  unfold decodeFamily8
  split
  case h_10 => exact .inl rfl
  all_goals
    rename_i hn
    exact .inr (fitsARow_of_and (and_F00F_of_fields hop hn) (by revert strict; decide))

theorem decodeFamilyE_eq_error_or_fitsARow (hop : opField w = 0xE#4) :
    decodeFamilyE w = .decodeError w ∨ FitsARow strict w := by
  unfold decodeFamilyE
  split
  case h_3 => exact .inl rfl
  all_goals
    rename_i hkk
    exact .inr (fitsARow_of_and (and_F0FF_of_fields hop hkk) (by revert strict; decide))

theorem decodeFamilyF_eq_error_or_fitsARow (hop : opField w = 0xF#4) :
    decodeFamilyF w = .decodeError w ∨ FitsARow strict w := by
  unfold decodeFamilyF
  split
  case h_10 => exact .inl rfl
  all_goals
    rename_i hkk
    exact .inr (fitsARow_of_and (and_F0FF_of_fields hop hkk) (by revert strict; decide))

theorem decode_eq_error_or_fitsARow (strict : Bool) (w : Word) :
    decode strict w = .decodeError w ∨ FitsARow strict w := by
  unfold decode
  split
  case h_1 hop => exact decodeFamily0_eq_error_or_fitsARow hop
  case h_6 hop => exact decodeRegPair_eq_error_or_fitsARow (.inl hop) _
  case h_9 hop => exact decodeFamily8_eq_error_or_fitsARow hop
  case h_10 hop => exact decodeRegPair_eq_error_or_fitsARow (.inr hop) _
  case h_15 hop => exact decodeFamilyE_eq_error_or_fitsARow hop
  case h_16 =>
    have hop : opField w = 0xF#4 := by generalize opField w = op at *; revert op; decide
    exact decodeFamilyF_eq_error_or_fitsARow hop
  all_goals
    rename_i hop
    exact .inr (fitsARow_of_and (and_F000_of_opField hop) (by revert strict; decide))

theorem decode_eq_error_of_no_row (h : ∀ row ∈ opcodeMap, row.fits strict w = false) :
    decode strict w = .decodeError w := by
  obtain error | ⟨row, hmem, hfits⟩ := decode_eq_error_or_fitsARow strict w
  · exact error
  · rw [h row hmem] at hfits
    cases hfits

end

/-! ## Decoding an encoded instruction (R340) -/

/-- By the instruction's layout (R302): every field the decoder reads off the packed word is the one packed. -/
theorem decode_encode (strict : Bool) {i : Instr} (h : i.wellFormed = true) : decode strict (encode i) = .instr i := by
  cases i with
  | cls | ret => cases strict <;> rfl
  | jpAddr nnn | callAddr nnn | ldIAddr nnn | jpV0Addr nnn =>
    simp only [encode, decode, opField_packNnn, nnnField_packNnn _ _ h]
    rfl
  | seVxByte x kk | sneVxByte x kk | ldVxByte x kk | addVxByte x kk | rndVxByte x kk =>
    simp only [encode, decode, opField_packXKk, xField_packXKk, kkField_packXKk]
    rfl
  | seVxVy x y | sneVxVy x y =>
    simp only [encode, decode, opField_packXYN, xField_packXYN, yField_packXYN]
    exact decodeRegPair_eq_instr (fun _ => nField_packXYN ..) _
  | ldVxVy x y | orVxVy x y | andVxVy x y | xorVxVy x y | addVxVy x y | subVxVy x y | shrVx x | subnVxVy x y
  | shlVx x =>
    simp only [encode, decode, decodeFamily8, opField_packXYN, xField_packXYN, yField_packXYN, nField_packXYN]
    rfl
  | drwVxVyN x y n =>
    have hn : n < 16 := of_decide_eq_true h
    simp only [encode, decode, opField_packXYN, xField_packXYN, yField_packXYN, nField_packXYN, BitVec.toNat_ofNat,
      Nat.reducePow, Nat.mod_eq_of_lt hn]
    rfl
  | skpVx x | sknpVx x =>
    simp only [encode, decode, decodeFamilyE, opField_packXKk, xField_packXKk, kkField_packXKk]
    rfl
  | ldVxDt x | ldVxK x | ldDtVx x | ldStVx x | addIVx x | ldFVx x | ldBVx x | ldMemVx x | ldVxMem x =>
    simp only [encode, decode, decodeFamilyF, opField_packXKk, xField_packXKk, kkField_packXKk]
    rfl

/-! ## The obligations -/

/-- Settles O1, by the layout of the instruction's word. -/
theorem decodeOfEncodeIsIdentity : Obligations.DecodeOfEncodeIsIdentity :=
  fun strict _ => decode_encode strict

/-- Settles O2: an operand that has a bound is a field of the word. -/
theorem decodedInstructionIsWellFormed : Obligations.DecodedInstructionIsWellFormed :=
  fun _ _ _ => decode_wellFormed

/-- Settles O4: the rows read against the decoder, the decoder's branches against the rows, and the rows against each
other. -/
theorem decodeFollowsOpcodeMap : Obligations.DecodeFollowsOpcodeMap :=
  fun _ _ => ⟨fun _ => decode_of_fits, decode_eq_error_of_no_row, fun _ _ _ _ => opcodeMap_fits_unique⟩

/-- Settles O6: the three words are run; the failing words are those of family 0 that neither trailing nibble fits. -/
theorem decodeExamplesOfTheDocument : Obligations.DecodeExamplesOfTheDocument := by
  intro strict
  have words : decode strict 0x00E0 = .instr .cls ∧ decode strict 0x1ABC = .instr (.jpAddr 0xABC) ∧
      decode strict 0xD123 = .instr (.drwVxVyN 1 2 3) := by cases strict <;> decide
  obtain ⟨hcls, hjp, hdrw⟩ := words
  refine ⟨hcls, hjp, hdrw, fun w hop h0 hE => ?_⟩
  rw [← toNat_nField] at h0 hE
  rw [← toNat_opField] at hop
  rw [decode_family0 (BitVec.eq_of_toNat_eq hop)]
  exact decodeFamily0_eq_error (fun e => h0 (congrArg BitVec.toNat e)) (fun e => hE (congrArg BitVec.toNat e))

end Sys2Proof

namespace Sys2Proof.Machine

/-- Settles O10: of what a step can do (R400), a word that fits no row leaves only the decode failure; the event that
faults leaves the halted state. -/
theorem unlistedWordIsFatal : Obligations.UnlistedWordIsFatal := by
  intro s hrun hpc hnone
  have failure := decode_eq_error_of_no_row hnone
  have hstep : step s = .fault (.decodeError (s.readWord s.pc.toNat)) := by
    rcases step_cases s with ⟨ended, _⟩ | ⟨_, above, _⟩ | ⟨_, _, w, hd, e⟩ | ⟨_, _, i, hd, e⟩
    · exact absurd hrun ended
    · omega
    · cases failure.symm.trans hd
      exact e
    · cases failure.symm.trans hd
  refine ⟨hstep, ?_⟩
  rw [State.apply, hstep]
  rfl

end Sys2Proof.Machine
end

section
/-!
PROOF. The sequencer (spec/40_sequencer_control.md): CALL and RET on a stack with and without room (R410, R411), a return
after a call, the sum of JP V0 (R413, D19), and the statements about control transfers and the step from these.
-/
namespace Sys2Proof.Machine

/-! ## CALL and RET (R410, R411) -/

section
variable {s : State} {nnn : Word}

theorem exec_callAddr_room (room : s.sp.val < s.params.stackDepth.toNat) :
    exec (.callAddr nnn) s = .next ((s.pushed (s.pc + 2)).setPc nnn) := by
  obtain ⟨full, _⟩ | ⟨_, e⟩ := s.pushJump_cases (s.pc + 2) nnn
  · omega
  · exact e

theorem exec_callAddr_full (full : s.params.stackDepth.toNat ≤ s.sp.val) :
    exec (.callAddr nnn) s = .fault (.stackOverflow s.pc) := by
  obtain ⟨_, e⟩ | ⟨room, _⟩ := s.pushJump_cases (s.pc + 2) nnn
  · exact e
  · omega

theorem exec_ret_entry (entry : 0 < s.sp.val) : exec .ret s = .next (s.popped.setPc s.top) := by
  obtain ⟨empty, _⟩ | ⟨_, e⟩ := s.popJump_cases
  · omega
  · exact e

theorem exec_ret_empty (empty : s.sp.val = 0) : exec .ret s = .fault (.stackUnderflow s.pc) := by
  obtain ⟨_, e⟩ | ⟨entry, _⟩ := s.popJump_cases
  · exact e
  · omega

/-- The slots are 16 under either setting of P_STACK_DEPTH (R120). -/
theorem State.sp_lt_of_room (room : s.sp.val < s.params.stackDepth.toNat) : s.sp.val < 16 :=
  room.trans_le (StackDepth_toNat_le _)

/-- A pop undoes a push but for the slot, which keeps its stale value (R120). -/
theorem State.popped_pushed (w : Word) (h : s.sp.val < 16) :
    (s.pushed w).popped = { s with stack := (s.pushed w).stack } := by
  have sp_back : (s.pushed w).popped.sp = s.sp := by
    apply Fin.ext
    rw [State.popped_sp_val, s.pushed_sp_val w h, Nat.add_sub_cancel]
  change { s with stack := (s.pushed w).stack, sp := (s.pushed w).popped.sp } = _
  rw [sp_back]

/-- A return right after a push and a jump goes to the word pushed. -/
theorem exec_ret_pushed (w a : Word) (h : s.sp.val < 16) :
    exec .ret ((s.pushed w).setPc a) = .next { s with pc := w, stack := (s.pushed w).stack } := by
  have entry : 0 < ((s.pushed w).setPc a).sp.val := by
    rw [State.setPc_sp, s.pushed_sp_val w h]
    exact Nat.succ_pos _
  have back : (s.pushed w).popped.setPc (s.pushed w).top = { s with pc := w, stack := (s.pushed w).stack } := by
    rw [s.top_pushed w h, State.popped_pushed w h]
    rfl
  exact (exec_ret_entry entry).trans (congrArg _ back)

end

/-! ## The sum of JP V0 (R413, D19) -/

/-- Twelve bits and a byte never leave 16 bits. -/
theorem toNat_jumpV0 {nnn : Word} (h : addrFits nnn = true) (b : Byte) :
    (nnn + zext16 b).toNat = nnn.toNat + b.toNat := by
  have hnnn := toNat_lt_of_addrFits h
  have hb := b.isLt
  simp only [zext16, BitVec.toNat_add, BitVec.toNat_setWidth]
  omega

/-! ## The obligations -/

/-- Settles O32: both end in a jump, and JP V0's sum does not wrap. -/
theorem jumpsSetPcAlone : Obligations.JumpsSetPcAlone :=
  fun nnn s fits => ⟨rfl, s.setPc (nnn + zext16 (s.reg 0)), rfl, rfl, toNat_jumpV0 fits (s.reg 0)⟩

/-- Settles O33: by whether the stack has room, and what a push does to each slot. -/
theorem callPushesTheReturnAddress : Obligations.CallPushesTheReturnAddress := by
  refine fun nnn s => ⟨fun room => ?_, fun full => exec_callAddr_full full.ge⟩
  exact ⟨(s.pushed (s.pc + 2)).setPc nnn, exec_callAddr_room room, rfl,
    s.pushed_sp_val (s.pc + 2) (State.sp_lt_of_room room), s.pushed_stack_getElem (s.pc + 2)⟩

/-- Settles O34: by whether the stack has an entry; the one popped is in the slot below SP. -/
theorem retPopsIntoPc : Obligations.RetPopsIntoPc := by
  refine fun s => ⟨fun k hk => ?_, exec_ret_empty⟩
  refine ⟨s.popped.setPc s.stack[k], ?_, rfl, ?_⟩
  · rw [exec_ret_entry (by omega), s.top_eq k hk]
  · rw [State.setPc_sp, State.popped_sp_val, ← hk, Nat.add_sub_cancel]

/-- Settles O35: the pop gives back the word just pushed, and undoes all of the push but the slot. -/
theorem retAfterCallReturns : Obligations.RetAfterCallReturns := by
  intro nnn s room
  refine ⟨_, _, exec_callAddr_room room, exec_ret_pushed _ nnn (State.sp_lt_of_room room), rfl, fun k hk => ?_⟩
  exact (s.pushed_stack_getElem (s.pc + 2) k).trans (if_neg hk)

/-- Settles O7: of what a step can do, a running state with a word in bounds that decodes leaves only the execution. -/
theorem stepRunsDecodedInstruction : Obligations.StepRunsDecodedInstruction := by
  intro s i hrun hpc hdecode
  rw [← State.readWord] at hdecode
  rcases step_cases s with ⟨ended, _⟩ | ⟨_, above, _⟩ | ⟨_, _, w, hd, _⟩ | ⟨_, _, j, hd, e⟩
  · exact absurd hrun ended
  · omega
  · cases hdecode.symm.trans hd
  · cases hdecode.symm.trans hd
    exact e

end Sys2Proof.Machine
end

section
/-!
PROOF. The skips (spec/41_skips.md): where a skip on a comparison stands (R450 to R453), a skip on a key by what Vx names
(R460, R461, D12), and the statements about the skips from these.
-/
namespace Sys2Proof.Machine

section
variable (s : State)

/-! ## Skips on a comparison (R450 to R453) -/

theorem State.finish_skip_beq (a b : Byte) :
    s.finish (.skip (a == b)) = .next (s.setPc (if a.toNat = b.toNat then s.pc + 4 else s.pc + 2)) := by
  simp only [State.finish_eq, nextPc, beq_iff_eq, BitVec.toNat_inj]

theorem State.finish_skip_bne (a b : Byte) :
    s.finish (.skip (a != b)) = .next (s.setPc (if a.toNat = b.toNat then s.pc + 2 else s.pc + 4)) := by
  simp only [State.finish_eq, nextPc, bne_iff_ne, ne_eq, ite_not, BitVec.toNat_inj]

/-! ## Skips on a key (R460, R461, D12) -/

variable {s} {b : Byte} {wanted : Bool}

theorem State.skipOnKey_of_key {k : Fin 16} (hk : b.toNat = k.val) :
    s.skipOnKey b wanted = .next (s.setPc (if s.keys[k] = wanted then s.pc + 4 else s.pc + 2)) := by
  obtain ⟨j, hj, e⟩ | ⟨above, _⟩ | ⟨above, _⟩ := s.skipOnKey_cases b wanted
  · cases Fin.ext (hj.symm.trans hk)
    exact e
  all_goals omega

theorem State.skipOnKey_of_fault (above : 15 < b.toNat) (hp : s.params.keyOor = .fault) :
    s.skipOnKey b wanted = .fault (.operandOutOfRange b) := by
  obtain ⟨k, hk, _⟩ | ⟨_, _, e⟩ | ⟨_, hp', _⟩ := s.skipOnKey_cases b wanted
  · omega
  · exact e
  · cases hp.symm.trans hp'

theorem State.skipOnKey_of_notPressed (above : 15 < b.toNat) (hp : s.params.keyOor = .notPressed) :
    s.skipOnKey b wanted = .next (s.setPc (if false = wanted then s.pc + 4 else s.pc + 2)) := by
  obtain ⟨k, hk, _⟩ | ⟨_, hp', _⟩ | ⟨_, _, e⟩ := s.skipOnKey_cases b wanted
  · omega
  · cases hp.symm.trans hp'
  · exact e

/-- The skip on a key that is up, by whether the key is down. -/
theorem State.skipOnKey_false_of_key {k : Fin 16} (hk : b.toNat = k.val) :
    s.skipOnKey b false = .next (s.setPc (if s.keys[k] = true then s.pc + 2 else s.pc + 4)) := by
  rw [State.skipOnKey_of_key hk]
  cases s.keys[k] <;> rfl

end

/-! ## The obligations -/

/-- Settles O37: each of the four ends in a skip on a comparison of the two bytes. -/
theorem comparingSkipsMovePcAlone : Obligations.ComparingSkipsMovePcAlone :=
  fun x y kk s => ⟨s.finish_skip_beq (s.reg x) kk, s.finish_skip_bne (s.reg x) kk,
    s.finish_skip_beq (s.reg x) (s.reg y), s.finish_skip_bne (s.reg x) (s.reg y)⟩

/-- Settles O38: by whether Vx names a key and, where it does not, by P_KEY_OOR. -/
theorem keySkipsReadTheSnapshot : Obligations.KeySkipsReadTheSnapshot := by
  refine fun x s => ⟨fun k hk => ?key, fun above hp => ?fault, fun above hp => ?notPressed⟩
  case key => exact ⟨State.skipOnKey_of_key hk, State.skipOnKey_false_of_key hk⟩
  case fault => exact ⟨State.skipOnKey_of_fault above hp, State.skipOnKey_of_fault above hp⟩
  case notPressed => exact ⟨State.skipOnKey_of_notPressed above hp, State.skipOnKey_of_notPressed above hp⟩

end Sys2Proof.Machine
end

section
/-!
PROOF. The ALU (spec/42_alu.md): the two ends of an arm (a result alone, and the flag before the result, R530), the byte
operations and the flags as arithmetic on naturals (R501 to R524), and the statements about the ALU from these.
-/
namespace Sys2Proof.Machine

/-! ## The two ends of an arm of the ALU (R530) -/

section
variable {i : Instr} {s : State} {x : RegIdx} {b result flag : Byte} {c : Bool}

theorem WritesRegOnly.of_setReg (run : exec i s = (s.setReg x b).finish .next) (hb : b = result) :
    WritesRegOnly i s x result :=
  ⟨(s.setReg x b).setPc (s.pc + 2), run, rfl, (s.reg_setReg_same x b).trans hb, fun _ => s.reg_setReg_ne b⟩

/-- The result is written last, so it is what remains when `x` is VF (D3). -/
theorem WritesRegAndFlag.of_flagThenResult (run : exec i s = s.flagThenResult x c b) (hb : b = result)
    (hc : flagByte c = flag) : WritesRegAndFlag i s x result flag := by
  refine ⟨((s.setFlag c).setReg x b).setPc (s.pc + 2), run, rfl, ?target, fun hx => ?flag, fun r hrx hrf => ?others⟩
  case target => exact (State.reg_setReg_same _ x b).trans hb
  case flag => exact (State.reg_setReg_ne _ b hx.symm).trans ((s.reg_setReg_same 15 (flagByte c)).trans hc)
  case others => exact (State.reg_setReg_ne _ b hrx).trans (s.reg_setReg_ne (flagByte c) hrf)

end

/-! ## Byte operations as arithmetic on naturals -/

section
variable (a b : Byte)

theorem byte_add_eq : a + b = BitVec.ofNat 8 ((a.toNat + b.toNat) % 256) :=
  BitVec.eq_of_toNat_eq (by simp)

theorem byte_sub_eq : a - b = BitVec.ofNat 8 ((a.toNat + 256 - b.toNat) % 256) := by
  apply BitVec.eq_of_toNat_eq
  have hb := b.isLt
  simp only [BitVec.toNat_sub, BitVec.toNat_ofNat]
  omega

theorem byte_or_eq : a ||| b = BitVec.ofNat 8 (a.toNat ||| b.toNat) := by
  rw [← BitVec.toNat_or, BitVec.ofNat_toNat, BitVec.setWidth_eq]

theorem byte_and_eq : a &&& b = BitVec.ofNat 8 (a.toNat &&& b.toNat) := by
  rw [← BitVec.toNat_and, BitVec.ofNat_toNat, BitVec.setWidth_eq]

theorem byte_xor_eq : a ^^^ b = BitVec.ofNat 8 (a.toNat ^^^ b.toNat) := by
  rw [← BitVec.toNat_xor, BitVec.ofNat_toNat, BitVec.setWidth_eq]

theorem byte_shiftRight_one_eq : a >>> 1 = BitVec.ofNat 8 (a.toNat / 2) := by
  rw [← Nat.shiftRight_one, ← BitVec.toNat_ushiftRight, BitVec.ofNat_toNat, BitVec.setWidth_eq]

theorem byte_shiftLeft_one_eq : a <<< 1 = BitVec.ofNat 8 (a.toNat * 2 % 256) := by
  apply BitVec.eq_of_toNat_eq
  simp only [BitVec.toNat_shiftLeft, BitVec.toNat_ofNat, Nat.shiftLeft_eq]
  omega

/-! ## The flags as bytes (R520 to R524) -/

theorem flagByte_decide (p : Prop) [Decidable p] : flagByte (decide p) = if p then 1 else 0 := by
  by_cases h : p <;> simp [flagByte, h]

theorem flagByte_carryOf : flagByte (carryOf a b) = if 255 < a.toNat + b.toNat then 1 else 0 := flagByte_decide _

theorem flagByte_noBorrowOf : flagByte (noBorrowOf a b) = if b.toNat < a.toNat then 1 else 0 := flagByte_decide _

theorem flagByte_eq (c : Bool) : flagByte c = BitVec.ofNat 8 c.toNat := by cases c <;> rfl

theorem flagByte_getLsbD (k : Nat) : flagByte (a.getLsbD k) = BitVec.ofNat 8 (a.toNat / 2 ^ k % 2) := by
  rw [flagByte_eq, BitVec.getLsbD, Nat.toNat_testBit]

theorem flagByte_lowBitOf : flagByte (lowBitOf a) = BitVec.ofNat 8 (a.toNat % 2) := by
  rw [lowBitOf, flagByte_getLsbD, Nat.pow_zero, Nat.div_one]

theorem flagByte_highBitOf : flagByte (highBitOf a) = BitVec.ofNat 8 (a.toNat / 128) := by
  have top : a.toNat / 2 ^ 7 < 2 := Nat.div_lt_of_lt_mul a.isLt
  exact (flagByte_getLsbD a 7).trans (congrArg _ (Nat.mod_eq_of_lt top))

end

/-! ## The obligations -/

/-- Settles O39: each of the three ends in one write of its target, the byte as it was read. -/
theorem registerLoadsWriteTheirTarget : Obligations.RegisterLoadsWriteTheirTarget :=
  fun _ _ _ _ => ⟨.of_setReg rfl rfl, .of_setReg rfl rfl, .of_setReg rfl rfl⟩

/-- Settles O40: each of the four ends in one write of its target, with no write of VF (D20). -/
theorem flaglessAluOpsWriteTheirTarget : Obligations.FlaglessAluOpsWriteTheirTarget :=
  fun x y kk s => ⟨.of_setReg rfl (byte_add_eq (s.reg x) kk), .of_setReg rfl (byte_or_eq (s.reg x) (s.reg y)),
    .of_setReg rfl (byte_and_eq (s.reg x) (s.reg y)), .of_setReg rfl (byte_xor_eq (s.reg x) (s.reg y))⟩

/-- Settles O41: the carry is written before the sum. -/
theorem addSetsCarry : Obligations.AddSetsCarry :=
  fun x y s => .of_flagThenResult rfl (byte_add_eq (s.reg x) (s.reg y)) (flagByte_carryOf (s.reg x) (s.reg y))

/-- Settles O42: one difference and one flag, with the operands exchanged for SUBN. -/
theorem subtractionsSetNoBorrow : Obligations.SubtractionsSetNoBorrow :=
  fun x y s =>
    ⟨.of_flagThenResult rfl (byte_sub_eq (s.reg x) (s.reg y)) (flagByte_noBorrowOf (s.reg x) (s.reg y)),
      .of_flagThenResult rfl (byte_sub_eq (s.reg y) (s.reg x)) (flagByte_noBorrowOf (s.reg y) (s.reg x))⟩

/-- Settles O43: SHR's flag is bit 0 of the old value and SHL's is bit 7. -/
theorem shiftsSetTheBitShiftedOut : Obligations.ShiftsSetTheBitShiftedOut :=
  fun x s => ⟨.of_flagThenResult rfl (byte_shiftRight_one_eq (s.reg x)) (flagByte_lowBitOf (s.reg x)),
    .of_flagThenResult rfl (byte_shiftLeft_one_eq (s.reg x)) (flagByte_highBitOf (s.reg x))⟩

end Sys2Proof.Machine
end

section
/-!
PROOF. The address register and memory instructions (spec/43_address_memory.md): the sum of ADD I, the values of LD F
and LD B, the end of an instruction whose bytes lie in memory (R210), and the statements about this family from these.
-/
namespace Sys2Proof.Machine

/-! ## The values computed (R610, R620, R630) -/

/-- ADD I's sum keeps all 16 bits (D5). -/
theorem toNat_add_zext16 (w : Word) (b : Byte) : (w + zext16 b).toNat = (w.toNat + b.toNat) % 65536 := by
  rw [BitVec.toNat_add, zext16, BitVec.toNat_setWidth_of_le (by decide)]

theorem toNat_glyphAddress (d : Fin 16) : (glyphAddress d).toNat = 5 * d.val :=
  Nat.mod_eq_of_lt (by omega)

theorem flagByte_leaves12Bits (w : Word) (b : Byte) :
    flagByte (leaves12Bits w b) = if 0xFFF < w.toNat + b.toNat then 1 else 0 := flagByte_decide _

/-- A part of a byte is a byte: no digit of LD B is cut off. -/
theorem toNat_ofNat_of_le_byte {n : Nat} {b : Byte} (h : n ≤ b.toNat) : (BitVec.ofNat 8 n).toNat = n :=
  Nat.mod_eq_of_lt (h.trans_lt b.isLt)

/-! ## Instructions whose bytes lie in memory (R210) -/

section
variable {s : State} {x : RegIdx}

theorem State.withSpan_finish_next {u : State} {len : Nat} (inBounds : s.spanInBounds len) (hpc : u.pc = s.pc) :
    s.withSpan len (u.finish .next) = .next (u.setPc (s.pc + 2)) := by
  obtain ⟨_, e⟩ | ⟨outOfBounds, _⟩ := s.withSpan_cases len (u.finish .next)
  · rw [e, State.finish_eq, nextPc, hpc]
  · exact absurd inBounds outOfBounds

@[simp] theorem State.writeBytes_pc (a : Nat) (bs : List Byte) : (s.writeBytes a bs).pc = s.pc := by
  rw [s.writeBytes_mem_only]

@[simp] theorem State.storeRegs_pc (a n : Nat) : (s.storeRegs a n).pc = s.pc := by rw [s.storeRegs_mem_only]

@[simp] theorem State.loadRegs_pc (a n : Nat) : (s.loadRegs a n).pc = s.pc := by rw [s.loadRegs_v_only]

theorem exec_ldBVx_inBounds (h : s.i.toNat + 2 ≤ 0xFFF) :
    exec (.ldBVx x) s = .next ((s.writeBytes s.i.toNat (decimalDigits (s.reg x))).setPc (s.pc + 2)) :=
  State.withSpan_finish_next (.inr (by omega)) (State.writeBytes_pc _ _)

theorem exec_ldMemVx_inBounds (h : s.i.toNat + x.val ≤ 0xFFF) :
    exec (.ldMemVx x) s = .next ((s.storeRegs s.i.toNat (x.val + 1)).setPc (s.pc + 2)) :=
  State.withSpan_finish_next (.inr (by omega)) (State.storeRegs_pc _ _)

theorem exec_ldVxMem_inBounds (h : s.i.toNat + x.val ≤ 0xFFF) :
    exec (.ldVxMem x) s = .next ((s.loadRegs s.i.toNat (x.val + 1)).setPc (s.pc + 2)) :=
  State.withSpan_finish_next (.inr (by omega)) (State.loadRegs_pc _ _)

end

/-! ## The obligations -/

/-- Settles O46: by P_ADD_I_VF (D4); the flag is that of the operands as read. -/
theorem addressRegisterIsLoadedAndAdded : Obligations.AddressRegisterIsLoadedAndAdded := by
  refine fun x nnn s => ⟨rfl, ?_⟩
  have sum := toNat_add_zext16 s.i (s.reg x)
  obtain ⟨hp, e⟩ | ⟨hp, e⟩ := (s.setI (s.i + zext16 (s.reg x))).setAddIFlag_cases s.i (s.reg x)
  · exact ⟨_, congrArg (State.finish · .next) e, rfl, sum, fun _ _ => rfl, fun _ => rfl,
      fun overflow => (nomatch hp.symm.trans overflow)⟩
  · exact ⟨_, congrArg (State.finish · .next) e, rfl, sum, fun _ => State.reg_setReg_ne _ _,
      fun unchanged => (nomatch hp.symm.trans unchanged),
      fun _ => (State.reg_setReg_same _ _ _).trans (flagByte_leaves12Bits s.i (s.reg x))⟩

/-- Settles O47: of what LD F can do, the value of Vx and P_FONT_OOR leave one. -/
theorem fontAddressOfADigit : Obligations.FontAddressOfADigit := by
  intro x s
  obtain ⟨d, hd, e⟩ | ⟨above, hp, e⟩ | ⟨above, hp, e⟩ := execLdFVx_cases x s
  · rw [hd]
    exact ⟨fun _ => ⟨_, e, rfl, toNat_glyphAddress d⟩, fun _ _ => by omega, fun _ _ => by omega⟩
  · exact ⟨fun _ => by omega, fun _ _ => e, fun _ unchanged => (nomatch hp.symm.trans unchanged)⟩
  · exact ⟨fun _ => by omega, fun _ fault => (nomatch hp.symm.trans fault), fun _ _ => e⟩

/-- Settles O48: the three bytes written are the digits, and every other byte lies outside them. -/
theorem decimalDigitsAreStored : Obligations.DecimalDigitsAreStored := by
  intro x s h
  have digit (k : Nat) (hk : k < 3) := s.readByte_writeBytes_inside s.i.toNat k (decimalDigits (s.reg x)) hk
  refine ⟨_, exec_ldBVx_inBounds h, congrArg (State.setPc · (s.pc + 2)) (s.writeBytes_mem_only _ _),
    ?hundreds, ?tens, ?ones, fun a => s.readByte_writeBytes_outside s.i.toNat a (decimalDigits (s.reg x))⟩
  case hundreds =>
    exact (congrArg BitVec.toNat (digit 0 (by decide))).trans (toNat_ofNat_of_le_byte (Nat.div_le_self _ _))
  case tens =>
    exact (congrArg BitVec.toNat (digit 1 (by decide))).trans
      (toNat_ofNat_of_le_byte ((Nat.mod_le _ _).trans (Nat.div_le_self _ _)))
  case ones =>
    exact (congrArg BitVec.toNat (digit 2 (by decide))).trans (toNat_ofNat_of_le_byte (Nat.mod_le _ _))

/-- Settles O49: what the loop over V0 to Vx stores, and what lies outside its range. -/
theorem registersAreStored : Obligations.RegistersAreStored := by
  intro x s h
  refine ⟨_, exec_ldMemVx_inBounds h, congrArg (State.setPc · (s.pc + 2)) (s.storeRegs_mem_only _ _),
    fun r hr => ?stored, fun a => s.readByte_storeRegs_outside s.i.toNat a (x.val + 1)⟩
  case stored =>
    rw [State.setPc_readByte, s.readByte_storeRegs_inside _ _ _ (Nat.lt_succ_of_le hr), Fin.ofNat_val_eq_self]

/-- Settles O50: what the loop over V0 to Vx leaves in each register. -/
theorem registersAreLoaded : Obligations.RegistersAreLoaded := by
  intro x s h
  have loaded := s.reg_loadRegs s.i.toNat (x.val + 1) x.isLt
  refine ⟨_, exec_ldVxMem_inBounds h, congrArg (State.setPc · (s.pc + 2)) (s.loadRegs_v_only _ _),
    fun r hr => ?upTo, fun r hr => ?beyond⟩
  case upTo => exact (loaded r).trans (if_pos (Nat.lt_succ_of_le hr))
  case beyond => exact (loaded r).trans (if_neg (Nat.not_lt.2 hr))

/-- Settles O51: the load reads from the unchanged I on what the store left there, and memory does not depend on V. -/
theorem storeThenLoadRestoresRegisters : Obligations.StoreThenLoadRestoresRegisters := by
  intro x s h
  obtain ⟨t, store, t_frame, stored, _⟩ := registersAreStored x s h
  have hi : t.i = s.i := by rw [t_frame]
  refine ⟨t, store, fun v => ?_⟩
  obtain ⟨u, load, u_frame, loaded, _⟩ := registersAreLoaded x { t with v := v } (hi ▸ h)
  refine ⟨u, load, ?keepsI, fun r hr => ?restored⟩
  case keepsI => rw [u_frame, hi]
  case restored =>
    calc u.reg r
      _ = t.readByte (t.i.toNat + r.val) := loaded r hr
      _ = t.readByte (s.i.toNat + r.val) := by rw [hi]
      _ = s.reg r := stored r hr

end Sys2Proof.Machine
end

section
/-!
PROOF. The display (spec/44_display.md): the source bit that lands on a screen pixel (R700, R702), two calls of Draw with one
sprite (R704, log 11), what DRW's span leaves of its execution (R720, D9), and the statements about the display from these.
-/
namespace Sys2Proof.Machine

/-! ## The source bit on a pixel (R700, R702) -/

section
variable {sprite : List Byte} (sx sy : Byte)

/-- The closed form read at the wrapped place of source bit `c` of sprite row `r`. -/
theorem spriteBit_wrapped {r c : Nat} {b : Byte} (hr : r < 32) (hc : c < 8) (hb : sprite[r]? = some b) :
    spriteBit sprite sx sy (Fin.ofNat 32 (sy.toNat + r)) (Fin.ofNat 64 (sx.toNat + c)) = b.getLsbD (7 - c) := by
  have row := (row_eq_iff sy.toNat r hr sy.isLt _).1 rfl
  have col := (column_eq_iff sx.toNat c hc sx.isLt _).1 rfl
  simp only [spriteBit, row, col, hb, hc, decide_true, Bool.true_and, Option.getD_some]

variable (sprite) in
/-- The screen pixels on which a 1 bit of the sprite lands. -/
theorem spriteBit_eq_true_iff (len : sprite.length ≤ 32) (q : Fin 32) (d : Fin 64) :
    spriteBit sprite sx sy q d = true ↔ ∃ (r c : Nat) (b : Byte), sprite[r]? = some b ∧ c < 8 ∧
      b.getLsbD (7 - c) = true ∧ q = Fin.ofNat 32 (sy.toNat + r) ∧ d = Fin.ofNat 64 (sx.toNat + c) := by
  constructor
  · intro bit
    obtain ⟨hc, bit⟩ := Bool.and_eq_true_iff.1 bit
    have hc := of_decide_eq_true hc
    cases hb : sprite[(q.val + 256 - sy.toNat) % 32]? with
    | none => simp [hb] at bit
    | some b =>
      exact ⟨_, _, b, hb, hc, by simpa only [hb, Option.getD_some] using bit,
        (row_eq_iff sy.toNat _ (Nat.mod_lt _ (by decide)) sy.isLt q).2 rfl,
        (column_eq_iff sx.toNat _ hc sx.isLt d).2 rfl⟩
  · rintro ⟨r, c, b, hb, hc, bit, rfl, rfl⟩
    obtain ⟨hr, _⟩ := List.getElem?_eq_some_iff.1 hb
    rwa [spriteBit_wrapped sx sy (hr.trans_le len) hc hb]

theorem byte_ne_zero_iff (b : Byte) : b ≠ 0 ↔ ∃ c < 8, b.getLsbD (7 - c) = true := by
  constructor
  · intro nonzero
    by_contra noBit
    refine nonzero (BitVec.eq_of_getLsbD_eq fun k hk => ?_)
    have bit : b.getLsbD (7 - (7 - k)) ≠ true := fun bit => noBit ⟨7 - k, by omega, bit⟩
    simpa [show 7 - (7 - k) = k by omega] using bit
  · rintro ⟨c, _, bit⟩ rfl
    simp at bit

variable (sprite) in
/-- No bit of a sprite of at most 32 rows is lost off the screen. -/
theorem exists_spriteBit_iff (len : sprite.length ≤ 32) :
    (∃ q d, spriteBit sprite sx sy q d = true) ↔ ∃ b ∈ sprite, b ≠ 0 := by
  simp only [spriteBit_eq_true_iff sprite sx sy len, byte_ne_zero_iff, List.mem_iff_getElem?]
  constructor
  · rintro ⟨_, _, r, c, b, hb, hc, bit, _⟩
    exact ⟨b, ⟨r, hb⟩, c, hc, bit⟩
  · rintro ⟨b, ⟨r, hb⟩, c, hc, bit⟩
    exact ⟨_, _, r, c, b, hb, hc, bit, rfl, rfl⟩

end

/-! ## Two calls of Draw with one sprite (R701, R704, log 11) -/

section
variable (fb : Framebuffer) (sprite : List Byte) (sx sy : Byte) (len : sprite.length ≤ 32)
include len

/-- XOR is its own inverse, pixel by pixel. -/
theorem draw_draw_fb : (draw (draw fb sprite sx sy).fb sprite sx sy).fb = fb :=
  Framebuffer.ext_pixel fun q d => by
    rw [pixel_draw _ _ _ _ len, pixel_draw _ _ _ _ len, Bool.xor_assoc, Bool.xor_self, Bool.xor_false]

/-- The second call meets exactly the pixels that the first one set. -/
theorem collided_draw_draw : (draw (draw fb sprite sx sy).fb sprite sx sy).collided = true ↔
    ∃ q d, spriteBit sprite sx sy q d = true ∧ fb.pixel q d = false := by
  simp only [collided_draw _ _ _ _ len, pixel_draw _ _ _ _ len]
  refine exists₂_congr fun q d => and_congr_right fun bit => ?_
  rw [bit, Bool.xor_true, Bool.not_eq_true']

/-- Each 1 bit of the sprite meets a set pixel in exactly one of the two calls. -/
theorem collided_draw_or_draw_draw : ((draw fb sprite sx sy).collided = true ∨
    (draw (draw fb sprite sx sy).fb sprite sx sy).collided = true) ↔ ∃ b ∈ sprite, b ≠ 0 := by
  rw [collided_draw _ _ _ _ len, collided_draw_draw _ _ _ _ len, ← exists_spriteBit_iff sprite sx sy len]
  constructor
  · rintro (⟨q, d, bit, _⟩ | ⟨q, d, bit, _⟩) <;> exact ⟨q, d, bit⟩
  · rintro ⟨q, d, bit⟩
    cases pixel : fb.pixel q d with
    | true => exact .inl ⟨q, d, bit, pixel⟩
    | false => exact .inr ⟨q, d, bit, pixel⟩

end

/-! ## DRW with its sprite in memory (R720) -/

section
variable (s : State)

theorem State.readBytes_eq_map (a n : Nat) : s.readBytes a n = (List.range n).map fun k => s.readByte (a + k) := by
  apply List.ext_getElem?
  intro k
  by_cases hk : k < n
  · rw [s.getElem?_readBytes a n k hk, List.getElem?_map, List.getElem?_range hk, Option.map_some]
  · rw [List.getElem?_eq_none (by rw [s.length_readBytes]; omega), List.getElem?_eq_none (by simpa using hk)]

/-- The state DRW leaves; where n = 0 nothing is touched, whatever I is (D9). -/
theorem exec_drwVxVyN_inBounds (x y : RegIdx) (n : Nat) (h : n = 0 ∨ s.i.toNat + n - 1 ≤ 0xFFF) :
    exec (.drwVxVyN x y n) s = .next (((s.setFb (s.spriteDrawn x y n).fb).setFlag
      (s.spriteDrawn x y n).collided).emitDisplay.setPc (s.pc + 2)) :=
  State.withSpan_finish_next (h.imp_right fun _ => by omega) rfl

end

/-! ## The obligations -/

/-- Settles O53: of the state DRW leaves, the grid and the flag are those of Draw on the bytes read from I on. -/
theorem drawInstructionBlitsTheSprite : Obligations.DrawInstructionBlitsTheSprite := by
  intro x y n s hn hspan sprite
  have len : sprite.length ≤ 32 := by
    have : n < 16 := of_decide_eq_true hn
    simp only [sprite, List.length_map, List.length_range]
    omega
  have drawn : s.spriteDrawn x y n = draw s.fb sprite (s.reg x) (s.reg y) := by
    rw [State.spriteDrawn, State.readBytes_eq_map]
  have collision := collided_draw s.fb sprite (s.reg x) (s.reg y) len
  have run := exec_drwVxVyN_inBounds s x y n hspan
  rw [drawn] at run
  refine ⟨_, run, rfl, pixel_draw s.fb sprite (s.reg x) (s.reg y) len, fun met => ?met, fun clear => ?clear,
    fun r => State.reg_setReg_ne _ _, fun empty => ?noRows⟩
  case met => exact (State.reg_setReg_same _ 15 _).trans (congrArg flagByte (collision.2 met))
  case clear =>
    have noCollision := eq_false_of_ne_true fun collided => by
      obtain ⟨q, d, bit, pixel⟩ := collision.1 collided
      exact Bool.false_ne_true ((clear q d bit).symm.trans pixel)
    exact (State.reg_setReg_same _ 15 _).trans (congrArg flagByte noCollision)
  case noRows =>
    subst empty
    exact ⟨rfl, State.reg_setReg_same _ 15 _⟩

/-- Settles O54: every clause reads the closed form of Draw at the wrapped place of a source bit. -/
theorem drawWrapsAndXorsEachBit : Obligations.DrawWrapsAndXorsEachBit := by
  intro fb sprite sx sy h
  have len : sprite.length ≤ 32 := by omega
  have lands := spriteBit_eq_true_iff sprite sx sy len
  refine ⟨fun r c b hb hc => ?xored, fun q d outside => ?outside, ?collided⟩
  case xored =>
    obtain ⟨hr, _⟩ := List.getElem?_eq_some_iff.1 hb
    rw [pixel_draw _ _ _ _ len, spriteBit_wrapped sx sy (hr.trans_le len) hc hb]
  case outside =>
    have noBit : spriteBit sprite sx sy q d = false := eq_false_of_ne_true fun bit => by
      obtain ⟨r, c, b, hb, hc, _, place⟩ := (lands q d).1 bit
      obtain ⟨hr, _⟩ := List.getElem?_eq_some_iff.1 hb
      exact outside r c hr hc place
    rw [pixel_draw _ _ _ _ len, noBit, Bool.xor_false]
  case collided =>
    rw [collided_draw _ _ _ _ len]
    constructor
    · rintro ⟨q, d, landed, pixel⟩
      obtain ⟨r, c, b, hb, hc, bit, rfl, rfl⟩ := (lands q d).1 landed
      exact ⟨r, c, b, hb, hc, bit, pixel⟩
    · rintro ⟨r, c, b, hb, hc, bit, pixel⟩
      exact ⟨_, _, (lands _ _).2 ⟨r, c, b, hb, hc, bit, rfl, rfl⟩, pixel⟩

/-- Settles O55: a set pixel is erased exactly where a source bit is 1. -/
theorem collisionIffAPixelWasErased : Obligations.CollisionIffAPixelWasErased := by
  intro fb sprite sx sy h
  have len : sprite.length ≤ 32 := by omega
  simp only [collided_draw _ _ _ _ len, pixel_draw _ _ _ _ len]
  refine exists₂_congr fun q d => and_comm.trans (and_congr_right fun pixel => ?_)
  rw [pixel, Bool.true_xor, Bool.not_eq_false']

/-- Settles O56: a 1 bit of the sprite on a clear pixel is what the first call sets and the second meets; a blank grid is
clear everywhere. -/
theorem drawingTwiceRestoresTheGrid : Obligations.DrawingTwiceRestoresTheGrid := by
  intro fb sprite sx sy h
  have len : sprite.length ≤ 32 := by omega
  have second := collided_draw_draw fb sprite sx sy len
  refine ⟨draw_draw_fb fb sprite sx sy len, second.trans ?set, fun blank => second.trans ?blank⟩
  case set =>
    refine exists₂_congr fun q d => and_comm.trans (and_congr_right fun pixel => ?_)
    rw [pixel_draw _ _ _ _ len, pixel, Bool.false_xor]
  case blank =>
    simp only [blank, Framebuffer.pixel_blank, and_true]
    exact exists_spriteBit_iff sprite sx sy len

/-- Settles O60: one of the two calls collides iff the sprite has a 1 bit, and where it is not the first it is the second. -/
theorem secondDrawCollidesWhereTheFirstDidNot : Obligations.SecondDrawCollidesWhereTheFirstDidNot := by
  intro fb sprite sx sy h
  have either := collided_draw_or_draw_draw fb sprite sx sy (h.trans (by decide))
  exact ⟨either, fun first => (or_iff_right (ne_true_of_eq_false first)).symm.trans either⟩

/-- Settles O52: CLS leaves the blank grid. -/
theorem clearScreenClearsEveryPixel : Obligations.ClearScreenClearsEveryPixel :=
  fun s => ⟨(s.setFb Framebuffer.blank).emitDisplay.setPc (s.pc + 2), rfl, rfl, Framebuffer.pixel_blank⟩

end Sys2Proof.Machine
end

section
/-!
PROOF. The timer and key-wait instructions (spec/45_timers_input.md): the sound output as a fact about ST (R142), LD Vx, K
with and without a recorded press (R810, D13), and the statements about this family from these.
-/
namespace Sys2Proof.Machine

section
variable (s : State)

/-! ## The sound output (R142) -/

theorem State.soundOut_eq_true_iff : s.soundOut = true ↔ s.st ≠ 0 := by
  rw [State.soundOut, decide_eq_true_iff, Nat.pos_iff_ne_zero]
  exact (BitVec.toNat_inj (y := 0)).not

/-! ## LD Vx, K by what is recorded (R810, D13) -/

variable {s} {k : KeyIdx}

theorem exec_ldVxK_of_press (x : RegIdx) (press : s.lastPressed = some k) :
    exec (.ldVxK x) s =
      .next (((s.setReg x (BitVec.ofNat 8 k.val)).setLastPressed none).setPc (s.pc + 2)) := by
  simp only [exec, execLdVxK, press]
  rfl

/-- The disposition Stall leaves pc, and nothing else is written. -/
theorem exec_ldVxK_of_noPress (x : RegIdx) (noPress : s.lastPressed = none) : exec (.ldVxK x) s = .next s := by
  simp only [exec, execLdVxK, noPress]
  rfl

theorem toNat_keyByte (k : KeyIdx) : (BitVec.ofNat 8 k.val).toNat = k.val :=
  Nat.mod_eq_of_lt (k.isLt.trans (by decide))

end

/-! ## The obligations -/

/-- Settles O58: each of the two ends in one write of its timer, and `sound_out` reads the ST just written. -/
theorem timerLoadsSetTheTimerAlone : Obligations.TimerLoadsSetTheTimerAlone :=
  fun x s => ⟨rfl, (s.setSt (s.reg x)).setPc (s.pc + 2), rfl, rfl, State.soundOut_eq_true_iff _⟩

/-- Settles O59: by whether a press is recorded; the only register written is Vx, with the number of the key. -/
theorem keyWaitConsumesAPressOrStalls : Obligations.KeyWaitConsumesAPressOrStalls := by
  refine fun x s => ⟨fun k press => ?press, exec_ldVxK_of_noPress x⟩
  refine ⟨_, exec_ldVxK_of_press x press, rfl, ?target, fun r => s.reg_setReg_ne _⟩
  exact (congrArg BitVec.toNat (s.reg_setReg_same x _)).trans (toNat_keyByte k)

end Sys2Proof.Machine
end

section
/-!
PROOF. The clean end of a run (spec/60_exceptions.md): the statement about `terminate` (R960), from the law of a host event
on a running block.
-/
namespace Sys2Proof.Machine

/-- Settles O14: a running block takes the event, whose one write is that of Run; `halt_out` speaks of steps alone. -/
theorem terminateStopsCleanly : Obligations.TerminateStopsCleanly := by
  intro s hrun
  have written : s.apply .terminate = s.setRun .terminated := s.whileRunning_running _ hrun
  exact ⟨written, rfl⟩

end Sys2Proof.Machine
end

section
/-!
PROOF. The decoder word by word (spec/30_encoding.md): what of its word each family keeps (R333), which words each
family fails on (R332), and the statements about the two from these.
-/
namespace Sys2Proof

/-! ## A packed word from its fields (R301, R302) -/

section
variable {w : Word} {op n : BitVec 4} {kk : Byte}

theorem packXYN_of_fields (hop : opField w = op) (hn : nField w = n) : packXYN op (xField w) (yField w) n = w := by
  rw [← hop, ← hn, packXYN_fields]

theorem packXKk_of_fields (hop : opField w = op) (hkk : kkField w = kk) : packXKk op (xField w) kk = w := by
  rw [← hop, ← hkk, packXKk_fields]

theorem packNnn_of_fields (hop : opField w = op) : packNnn op (nnnField w) = w := by
  apply BitVec.eq_of_toNat_eq
  rw [toNat_packNnn, toNat_nnnField, ← hop, toNat_opField]
  omega
end

/-- A mask written nibble by nibble acts on each field by itself. -/
theorem packXYN_and_nibbles (op : BitVec 4) (x y : RegIdx) (n m₁ m₂ m₃ m₄ : BitVec 4) :
    packXYN op x y n &&& (m₁ ++ m₂ ++ m₃ ++ m₄ : BitVec (4 + 4 + 4 + 4)) =
      packXYN (op &&& m₁) (BitVec.ofFin x &&& m₂).toFin (BitVec.ofFin y &&& m₃).toFin (n &&& m₄) := by
  unfold packXYN
  refine (BitVec.and_append ..).trans ?_
  rw [BitVec.and_append, BitVec.and_append]

/-- The mask that leaves out the low nibble, ignored in families 5 and 9 (R322). -/
theorem packXYN_and_FFF0 (op : BitVec 4) (x y : RegIdx) (n : BitVec 4) :
    packXYN op x y n &&& 0xFFF0 = packXYN op x y 0 := by
  refine (packXYN_and_nibbles op x y n 0xF#4 0xF#4 0xF#4 0#4).trans ?_
  rw [and_allOnes4, and_allOnes4, and_allOnes4, BitVec.and_zero]
  rfl

/-- The mask that leaves out field y, ignored in SHR and SHL (R333). -/
theorem packXYN_and_FF0F (op : BitVec 4) (x y : RegIdx) (n : BitVec 4) :
    packXYN op x y n &&& 0xFF0F = packXYN op x 0 n := by
  refine (packXYN_and_nibbles op x y n 0xF#4 0xF#4 0#4 0xF#4).trans ?_
  rw [and_allOnes4, and_allOnes4, and_allOnes4, BitVec.and_zero]
  rfl

/-! ## What of its word a decoded instruction keeps (R333) -/

/-- The instruction's own word agrees with `w` in every bit but those R333 calls ignored. -/
def KeepsSignificantBits (strict : Bool) (w : Word) (i : Instr) : Prop :=
  encode i &&& Machine.significantBits strict i = w &&& Machine.significantBits strict i

section
variable {strict : Bool} {w : Word} {i : Instr}

theorem KeepsSignificantBits.of_encode_eq (h : encode i = w) : KeepsSignificantBits strict w i :=
  congrArg (· &&& Machine.significantBits strict i) h

theorem decodeFamily0_keeps (hop : opField w = 0x0#4) (h : decodeFamily0 strict w = .instr i) :
    KeepsSignificantBits strict w i := by
  unfold decodeFamily0 at h
  split at h
  case h_1 hn | h_2 hn => cases h; exact (and_F00F_of_fields hop hn).symm
  case h_3 | h_4 =>
    split at h <;> cases h
    rename_i hw
    exact .of_encode_eq hw.symm
  case h_5 => cases h

/-- SE Vx, Vy and SNE Vx, Vy: by default all but the low nibble, which strict decoding requires to be 0 (R322). -/
theorem decodeRegPair_keeps {op : BitVec 4} {j : Instr} (hop : opField w = op)
    (hencode : encode j = packXYN op (xField w) (yField w) 0x0#4) (hbits : Machine.significantBits false j = 0xFFF0)
    (h : decodeRegPair strict w j = .instr i) : KeepsSignificantBits strict w i := by
  cases eq_of_decodeRegPair h
  cases strict with
  | false =>
    rw [KeepsSignificantBits, hencode, hbits, packXYN_and_FFF0]
    conv_rhs => rw [← packXYN_of_fields hop rfl, packXYN_and_FFF0]
  | true =>
    have hn : nField w = 0x0#4 := by
      by_contra hn
      have failure : decodeRegPair true w i = .decodeError w := if_pos (by simpa using hn)
      cases failure.symm.trans h
    exact .of_encode_eq (hencode.trans (packXYN_of_fields hop hn))

/-- SHR and SHL: all but field y. -/
theorem KeepsSignificantBits.of_shift {n : BitVec 4} (hop : opField w = 0x8#4) (hn : nField w = n)
    (hencode : encode i = packXYN 0x8#4 (xField w) 0 n) (hbits : Machine.significantBits strict i = 0xFF0F) :
    KeepsSignificantBits strict w i := by
  rw [KeepsSignificantBits, hencode, hbits, packXYN_and_FF0F]
  conv_rhs => rw [← packXYN_of_fields hop hn, packXYN_and_FF0F]

theorem decodeFamily8_keeps (hop : opField w = 0x8#4) (h : decodeFamily8 w = .instr i) :
    KeepsSignificantBits strict w i := by
  unfold decodeFamily8 at h
  split at h <;> cases h
  case h_7 hn | h_9 hn => exact .of_shift hop hn rfl (by cases strict <;> rfl)
  all_goals
    rename_i hn
    exact .of_encode_eq (packXYN_of_fields hop hn)

theorem decodeFamilyE_keeps (hop : opField w = 0xE#4) (h : decodeFamilyE w = .instr i) :
    KeepsSignificantBits strict w i := by
  unfold decodeFamilyE at h
  split at h <;> cases h
  all_goals
    rename_i hkk
    exact .of_encode_eq (packXKk_of_fields hop hkk)

theorem decodeFamilyF_keeps (hop : opField w = 0xF#4) (h : decodeFamilyF w = .instr i) :
    KeepsSignificantBits strict w i := by
  unfold decodeFamilyF at h
  split at h <;> cases h
  all_goals
    rename_i hkk
    exact .of_encode_eq (packXKk_of_fields hop hkk)

/-- Family by family (R321 to R326), case `h_k` being the leading nibble `k - 1`. -/
theorem decode_keeps (h : decode strict w = .instr i) : KeepsSignificantBits strict w i := by
  unfold decode at h
  split at h
  case h_1 hop => exact decodeFamily0_keeps hop h
  case h_6 hop => exact decodeRegPair_keeps hop rfl rfl h
  case h_9 hop => exact decodeFamily8_keeps hop h
  case h_10 hop => exact decodeRegPair_keeps hop rfl rfl h
  case h_2 hop | h_3 hop | h_11 hop | h_12 hop => cases h; exact .of_encode_eq (packNnn_of_fields hop)
  case h_4 hop | h_5 hop | h_7 hop | h_8 hop | h_13 hop => cases h; exact .of_encode_eq (packXKk_of_fields hop rfl)
  case h_14 hop => cases h; exact .of_encode_eq (packXYN_of_fields hop (BitVec.ofNat_toNat 4 (nField w)).symm)
  case h_15 hop => exact decodeFamilyE_keeps hop h
  case h_16 =>
    have hop : opField w = 0xF#4 := by generalize opField w = op at *; revert op; decide
    exact decodeFamilyF_keeps hop h

end

/-! ## The words each family fails on (R332) -/

section
variable {strict : Bool} {w : Word}

theorem decodeFamily0_lenient_eq_error_iff :
    decodeFamily0 false w = .decodeError w ↔ (nField w).toNat ≠ 0x0 ∧ (nField w).toNat ≠ 0xE := by
  unfold decodeFamily0
  split
  case h_1 hn | h_2 hn => simp [hn]
  case h_5 h0 hE _ _ =>
    exact iff_of_true rfl ⟨fun e => h0 rfl (BitVec.eq_of_toNat_eq e), fun e => hE rfl (BitVec.eq_of_toNat_eq e)⟩
  all_goals contradiction

theorem decodeFamily0_strict_eq_error_iff : decodeFamily0 true w = .decodeError w ↔ w ≠ 0x00E0 ∧ w ≠ 0x00EE := by
  constructor
  · intro h
    constructor <;> rintro rfl <;> exact absurd h (by decide)
  · rintro ⟨hcls, hret⟩
    unfold decodeFamily0
    split
    case h_3 => exact if_neg hcls
    case h_4 => exact if_neg hret
    case h_5 => rfl
    all_goals contradiction

theorem decodeFamily0_eq_error_iff : decodeFamily0 strict w = .decodeError w ↔
    if strict then w ≠ 0x00E0 ∧ w ≠ 0x00EE else (nField w).toNat ≠ 0x0 ∧ (nField w).toNat ≠ 0xE := by
  cases strict with
  | false => exact decodeFamily0_lenient_eq_error_iff
  | true => exact decodeFamily0_strict_eq_error_iff

theorem decodeRegPair_eq_error_iff (i : Instr) :
    decodeRegPair strict w i = .decodeError w ↔ strict = true ∧ (nField w).toNat ≠ 0 := by
  have nibble : (nField w).toNat ≠ 0 ↔ nField w ≠ 0x0#4 := (BitVec.toNat_inj (y := 0x0#4)).not
  rw [nibble]
  cases strict with
  | false => simp [decodeRegPair]
  | true => simp [decodeRegPair]

theorem decodeFamily8_eq_error_iff :
    decodeFamily8 w = .decodeError w ↔ (nField w).toNat ∈ [0x8, 0x9, 0xA, 0xB, 0xC, 0xD, 0xF] := by
  unfold decodeFamily8
  split
  case h_10 =>
    refine iff_of_true rfl ?_
    generalize nField w = n at *
    revert n; decide
  all_goals
    rename_i hn
    simp [hn]

theorem decodeFamilyE_eq_error_iff :
    decodeFamilyE w = .decodeError w ↔ (kkField w).toNat ∉ [0x9E, 0xA1] := by
  unfold decodeFamilyE
  split
  case h_3 =>
    refine iff_of_true rfl ?_
    generalize kkField w = kk at *
    revert kk; decide
  all_goals
    rename_i hn
    simp [hn]

theorem decodeFamilyF_eq_error_iff : decodeFamilyF w = .decodeError w ↔
    (kkField w).toNat ∉ [0x07, 0x0A, 0x15, 0x18, 0x1E, 0x29, 0x33, 0x55, 0x65] := by
  unfold decodeFamilyF
  split
  case h_10 =>
    refine iff_of_true rfl ?_
    generalize kkField w = kk at *
    revert kk; decide
  all_goals
    rename_i hn
    simp [hn]

end

/-! ## The obligations -/

/-- Settles O3: a decoded instruction's fields are those of its word, and what it packs for the rest is 0 where R333
says ignored. -/
theorem decodeDropsOnlyIgnoredBits : Obligations.DecodeDropsOnlyIgnoredBits :=
  fun _ _ _ => decode_keeps

/-- Settles O5, by the leading nibble: each of the six families that have failing words fails on those listed. -/
theorem decodeFailuresAreTheListedWords : Obligations.DecodeFailuresAreTheListedWords := by
  intro strict w
  rw [← toNat_opField, ← toNat_nField, ← toNat_kkField]
  unfold decode
  split
  case h_1 hop => rw [decodeFamily0_eq_error_iff, hop]; simp
  case h_6 hop | h_10 hop => rw [decodeRegPair_eq_error_iff, hop]; simp
  case h_9 hop => rw [decodeFamily8_eq_error_iff, hop]; simp
  case h_15 hop => rw [decodeFamilyE_eq_error_iff, hop]; simp
  case h_16 =>
    have hop : opField w = 0xF#4 := by generalize opField w = op at *; revert op; decide
    rw [decodeFamilyF_eq_error_iff, hop]; simp
  all_goals
    rename_i hop
    rw [hop]
    simp

end Sys2Proof
end

section
/-!
PROOF. Faults and the end of a run (spec/60_exceptions.md, spec/40_sequencer_control.md R400): every answer an execution
can give (R901, R930), what a step answers by what it fetches, what an ended run keeps (R911), and the statements about
faults, the step and the host's events from these.
-/
namespace Sys2Proof.Machine

/-! ## Every answer of an execution (R901, R930) -/

/-- The faults of R901 that an instruction itself can raise, each with its case and its info. -/
inductive ListedFault (s : State) : Instr → Fault → Prop
  | stackOverflow {nnn : Word} (full : s.params.stackDepth.toNat ≤ s.sp.val) :
      ListedFault s (.callAddr nnn) (.stackOverflow s.pc)
  | stackUnderflow (empty : s.sp.val = 0) : ListedFault s .ret (.stackUnderflow s.pc)
  | outOfBounds {i : Instr} (outside : ¬ s.spanInBounds (touchedBytes i)) :
      ListedFault s i (.outOfBounds (max s.i.toNat 0x1000))
  | noSuchKey {i : Instr} {x : RegIdx} (skips : i = .skpVx x ∨ i = .sknpVx x) (above : 15 < (s.reg x).toNat)
      (faults : s.params.keyOor = .fault) : ListedFault s i (.operandOutOfRange (s.reg x))
  | noSuchDigit {x : RegIdx} (above : 15 < (s.reg x).toNat) (faults : s.params.fontOor = .fault) :
      ListedFault s (.ldFVx x) (.operandOutOfRange (s.reg x))

/-- The instruction completes, or raises a fault listed for it. -/
def Answers (i : Instr) (s : State) (r : Result) : Prop :=
  (∃ t, r = .next t) ∨ ∃ f, r = .fault f ∧ ListedFault s i f

section
variable {i : Instr} {s : State}

theorem Answers.of_withSpan {u : State} {d : Disposition} :
    Answers i s (s.withSpan (touchedBytes i) (u.finish d)) := by
  obtain ⟨_, e⟩ | ⟨outside, e⟩ := s.withSpan_cases (touchedBytes i) (u.finish d)
  · exact .inl ⟨_, e⟩
  · exact .inr ⟨_, e, .outOfBounds outside⟩

theorem Answers.of_skipOnKey {x : RegIdx} {wanted : Bool} (skips : i = .skpVx x ∨ i = .sknpVx x) :
    Answers i s (s.skipOnKey (s.reg x) wanted) := by
  obtain ⟨_, _, e⟩ | ⟨above, faults, e⟩ | ⟨_, _, e⟩ := s.skipOnKey_cases (s.reg x) wanted
  · exact .inl ⟨_, e⟩
  · exact .inr ⟨_, e, .noSuchKey skips above faults⟩
  · exact .inl ⟨_, e⟩

/-- Everything an execution can answer; where no shared operation that can fault is used, it completes. -/
theorem exec_answers (i : Instr) (s : State) : Answers i s (exec i s) := by
  cases i with
  | ret =>
    obtain ⟨empty, e⟩ | ⟨_, e⟩ := s.popJump_cases
    · exact .inr ⟨_, e, .stackUnderflow empty⟩
    · exact .inl ⟨_, e⟩
  | callAddr nnn =>
    obtain ⟨full, e⟩ | ⟨_, e⟩ := s.pushJump_cases (s.pc + 2) nnn
    · exact .inr ⟨_, e, .stackOverflow full⟩
    · exact .inl ⟨_, e⟩
  | drwVxVyN x y n => exact .of_withSpan
  | ldBVx x | ldMemVx x | ldVxMem x => exact .of_withSpan
  | skpVx x => exact .of_skipOnKey (.inl rfl)
  | sknpVx x => exact .of_skipOnKey (.inr rfl)
  | ldVxK x =>
    cases press : s.lastPressed with
    | none => exact .inl ⟨_, exec_ldVxK_of_noPress x press⟩
    | some k => exact .inl ⟨_, exec_ldVxK_of_press x press⟩
  | ldFVx x =>
    obtain ⟨_, _, e⟩ | ⟨above, faults, e⟩ | ⟨_, _, e⟩ := execLdFVx_cases x s
    · exact .inl ⟨_, e⟩
    · exact .inr ⟨_, e, .noSuchDigit above faults⟩
    · exact .inl ⟨_, e⟩
  | _ => exact .inl ⟨_, rfl⟩

theorem exec_fault {f : Fault} (h : exec i s = .fault f) : ListedFault s i f := by
  obtain ⟨t, e⟩ | ⟨f', e, listed⟩ := exec_answers i s <;> cases e.symm.trans h
  exact listed

end

/-! ## A step by what it fetches (R400) -/

section
variable {s : State}

theorem step_of_ended (ended : s.run ≠ .running) : step s = .refused .runEnded := by
  obtain ⟨_, e⟩ | ⟨hrun, _⟩ | ⟨hrun, _⟩ | ⟨hrun, _⟩ := step_cases s
  · exact e
  all_goals exact absurd hrun ended

theorem step_of_pc_above (hrun : s.run = .running) (above : 0xFFF < s.pc.toNat + 1) :
    step s = .fault (.outOfBounds s.pc.toNat) := by
  obtain ⟨ended, _⟩ | ⟨_, _, e⟩ | ⟨_, hpc, _⟩ | ⟨_, hpc, _⟩ := step_cases s
  · exact absurd hrun ended
  · exact e
  all_goals omega

theorem step_of_decode {i : Instr} (hrun : s.run = .running) (hpc : s.pc.toNat + 1 ≤ 0xFFF)
    (hdecode : decode s.params.decodeStrict (s.readWord s.pc.toNat) = .instr i) : step s = exec i s :=
  stepRunsDecodedInstruction s i hrun hpc hdecode

theorem step_of_decodeError {w : Word} (hrun : s.run = .running) (hpc : s.pc.toNat + 1 ≤ 0xFFF)
    (hdecode : decode s.params.decodeStrict (s.readWord s.pc.toNat) = .decodeError w) :
    step s = .fault (.decodeError w) := by
  obtain ⟨ended, _⟩ | ⟨_, above, _⟩ | ⟨_, _, w', hd, e⟩ | ⟨_, _, i, hd, _⟩ := step_cases s
  · exact absurd hrun ended
  · omega
  · cases hdecode.symm.trans hd
    exact e
  · cases hdecode.symm.trans hd

/-! ## An ended run (R911, D26) -/

theorem apply_of_ended (ended : s.run ≠ .running) (e : HostEvent) : s.apply e = s := by
  cases e with
  | step => rw [State.apply, step_of_ended ended]; rfl
  | tick | keysIn _ _ | terminate => exact s.whileRunning_ended _ ended

theorem applyAll_of_ended (ended : s.run ≠ .running) (es : List HostEvent) : s.applyAll es = s := by
  induction es with
  | nil => rfl
  | cons e es ih => rw [State.applyAll, apply_of_ended ended, ih]

theorem haltOut_of_ended (ended : s.run ≠ .running) (e : HostEvent) : s.haltOut e = none := by
  cases e with
  | step => rw [State.haltOut, step_of_ended ended]
  | tick | keysIn _ _ | terminate => rfl

/-! ## A faulting step (R900) -/

theorem apply_step_of_fault {f : Fault} (h : step s = .fault f) : s.apply .step = s.halt f := by
  rw [State.apply, h]
  rfl

theorem haltOut_step_of_fault {f : Fault} (h : step s = .fault f) :
    s.haltOut .step = some (faultCode f, faultInfo f) := by
  rw [State.haltOut, h]

theorem State.halt_run_ne_running (f : Fault) : (s.halt f).run ≠ .running := nofun

end

/-! ## The word placed for a step (log 7) -/

/-- A word of the opcode table is an instruction where the decoder reads it as one under the default parameters. -/
theorem decode_of_decodeTableWord {nbits w : Nat} {i : Instr} (h : decodeTableWord nbits w = some i) :
    decode Config.defaults.decodeStrict (BitVec.ofNat 16 (w % 2 ^ nbits)) = .instr i := by
  rw [decodeTableWord, bytesOfWord, decodeBytes, wordOfBytes_bytesOfWord] at h
  cases hd : decode Config.defaults.decodeStrict (BitVec.ofNat 16 (w % 2 ^ nbits)) with
  | instr j => rw [hd] at h; cases h; rfl
  | decodeError w' => rw [hd] at h; cases h

/-! ## The obligations -/

/-- Settles O29: of what an execution can answer, nothing is a refusal. -/
theorem executionNeverRefuses : Obligations.ExecutionNeverRefuses := by
  intro i s r h
  obtain ⟨t, e⟩ | ⟨f, e, _⟩ := exec_answers i s <;> cases e.symm.trans h

/-- Settles O30: each listed fault is one of the five clauses. -/
theorem faultCausesAreTheListedOnes : Obligations.FaultCausesAreTheListedOnes := by
  intro i s f h
  cases exec_fault h with
  | stackOverflow full => exact .inl ⟨⟨_, rfl⟩, full, rfl⟩
  | stackUnderflow empty => exact .inr (.inl ⟨rfl, empty, rfl⟩)
  | outOfBounds outside =>
    unfold State.spanInBounds at outside
    exact .inr (.inr (.inl ⟨by omega, by omega, rfl⟩))
  | noSuchKey skips above faults => exact .inr (.inr (.inr (.inl ⟨_, skips, above, faults, rfl⟩)))
  | noSuchDigit above faults => exact .inr (.inr (.inr (.inr ⟨_, rfl, above, faults, rfl⟩)))

/-- Settles O9: of what a step can do, a running state with pc above 0xFFE leaves the fault of the fetch. -/
theorem fetchAboveTheTopFaults : Obligations.FetchAboveTheTopFaults :=
  fun _ => step_of_pc_above

/-- Settles O12, the lists of events by induction. -/
theorem endedRunChangesNothing : Obligations.EndedRunChangesNothing :=
  fun _ ended => ⟨step_of_ended ended, applyAll_of_ended ended⟩

/-- Settles O11: the step event leaves the halted state, whose run has ended. -/
theorem faultWritesOnlyRunAndIsFinal : Obligations.FaultWritesOnlyRunAndIsFinal := by
  intro s f h
  rw [apply_step_of_fault h]
  have ended := s.halt_run_ne_running f
  exact ⟨rfl, haltOut_step_of_fault h, applyAll_of_ended ended, haltOut_of_ended ended⟩

/-- Settles O13: placing the word changes memory alone, and the next fetch reads it there. -/
theorem placedWordIsRunNext : Obligations.PlacedWordIsRunNext := by
  intro s w i hrun hpc hdefault htable
  have placed : s.withFetchWord 16 w = { s with mem := (s.withFetchWord 16 w).mem } := s.placeWord_mem_only _
  have hword : (s.withFetchWord 16 w).readWord s.pc.toNat = BitVec.ofNat 16 (w % 2 ^ 16) :=
    s.readWord_placeWord _ hpc
  have hdecode := decode_of_decodeTableWord htable
  rw [← hdefault, ← hword] at hdecode
  rw [placed] at hdecode ⊢
  exact step_of_decode hrun hpc hdecode

/-- Settles O16: a running block takes the event. -/
theorem keySnapshotReplacesKeyState : Obligations.KeySnapshotReplacesKeyState :=
  fun s _ _ => s.whileRunning_running _

end Sys2Proof.Machine
end

section
/-!
PROOF. Reset and load (spec/10_state.md R190, spec/70_reset_and_hazards.md R1000, R1003): the bytes of a constructed
block by their address, and the statements about the state after reset from these.
-/
namespace Sys2Proof.Machine

/-! ## Memory after reset and load -/

section
variable (p : Params) (image : List Byte)

theorem readByte_resetWith (a : Nat) : (State.resetWith p).readByte a =
    if a < 80 then p.fontTable[Fin.ofNat 16 (a / 5)][Fin.ofNat 5 (a % 5)] else 0 := rfl

theorem construct_mem_only :
    State.construct p image = { State.resetWith p with mem := (State.construct p image).mem } :=
  (State.resetWith p).load_mem_only image

/-- The image writes nothing below 0x200. -/
theorem readByte_construct_below {a : Nat} (h : a < 0x200) :
    (State.construct p image).readByte a = (State.resetWith p).readByte a :=
  (State.resetWith p).readByte_writeBytes_outside 0x200 a _ (.inl h)

/-- The image cut off at 3584 bytes (R1003); above its end memory keeps the zeros of reset. -/
theorem readByte_construct_image {k : Nat} (h : k < 3584) :
    (State.construct p image).readByte (0x200 + k) = image[k]?.getD 0 := by
  rw [State.construct, State.load]
  by_cases hk : k < image.length
  · rw [State.readByte_writeBytes_inside _ _ _ _ (by rw [List.length_take]; omega), List.getElem_take,
      List.getElem?_eq_getElem hk, Option.getD_some]
  · rw [State.readByte_writeBytes_outside _ _ _ _ (.inr (by rw [List.length_take]; omega)), readByte_resetWith,
      if_neg (by omega), List.getElem?_eq_none (by omega), Option.getD_none]

/-- Glyph `d` stands at `5 * d` (R111), below any image. -/
theorem readByte_construct_glyph (d : Fin 16) (r : Fin 5) :
    (State.construct p image).readByte (d.val * 5 + r.val) = p.fontTable[d][r] := by
  have hd : Fin.ofNat 16 ((d.val * 5 + r.val) / 5) = d := by
    apply Fin.ext
    simp only [Fin.ofNat]
    omega
  have hr : Fin.ofNat 5 ((d.val * 5 + r.val) % 5) = r := by
    apply Fin.ext
    simp only [Fin.ofNat]
    omega
  rw [readByte_construct_below p image (by omega), readByte_resetWith, if_pos (by omega)]
  simp only [hd, hr]

theorem readByte_construct_between {a : Nat} (aboveFont : 80 ≤ a) (belowImage : a < 0x200) :
    (State.construct p image).readByte a = 0 := by
  rw [readByte_construct_below p image belowImage, readByte_resetWith, if_neg (by omega)]

end

/-! ## The obligations -/

/-- Settles O17: memory by its four ranges; the load leaves every other field at its value of reset. -/
theorem resetLeavesTheListedValues : Obligations.ResetLeavesTheListedValues := by
  intro p image
  refine ⟨?pc, ?v, ?i, ?sp, ?stack, readByte_construct_glyph p image, fun _ => readByte_construct_between p image,
    fun _ => readByte_construct_image p image, ?fb, ?dt, ?st, ?keys, ?last, ?run⟩
  all_goals rw [construct_mem_only]
  case v | stack | keys => exact fun k => Vector.getElem_replicate k.isLt
  case fb => exact Framebuffer.pixel_blank
  all_goals rfl

/-- Settles O18: the glyphs lie below any image, so they are the bytes of reset, which are run. -/
theorem resetFontIsTheStandardTable : Obligations.ResetFontIsTheStandardTable := by
  intro image
  have below (a : Nat) (h : a < 80) :
      (State.construct Config.defaults image).readByte a = State.reset.readByte a :=
    readByte_construct_below Config.defaults image (by omega)
  have low : (List.range 40).map (State.construct Config.defaults image).readByte =
      (List.range 40).map State.reset.readByte :=
    List.map_congr_left fun a ha => below a (by have := List.mem_range.1 ha; omega)
  have high : (List.range 40).map (fun k => (State.construct Config.defaults image).readByte (40 + k)) =
      (List.range 40).map (fun k => State.reset.readByte (40 + k)) :=
    List.map_congr_left fun a ha => below (40 + a) (by have := List.mem_range.1 ha; omega)
  show _ ∧ _
  rw [low, high]
  decide

/-- Settles O19: without an image the word at 0x200 is 0, which R321 reads as CLS by default alone. -/
theorem emptyImageFirstStep : Obligations.EmptyImageFirstStep := by
  intro p
  have hword : (State.construct p []).readWord 0x200 = 0 := by
    have high := readByte_construct_image p [] (k := 0) (by decide)
    have low := readByte_construct_image p [] (k := 1) (by decide)
    rw [State.readWord, high, low]
    rfl
  have first : decode p.decodeStrict ((State.construct p []).readWord 0x200) = decode p.decodeStrict 0 := by rw [hword]
  have inBounds : 0x200 + 1 ≤ 0xFFF := by decide
  refine ⟨fun lenient => ?cls, fun strict => ?failure⟩
  case cls =>
    have hstep : step (State.construct p []) = exec .cls (State.construct p []) :=
      step_of_decode rfl inBounds (first.trans (by rw [lenient]; rfl))
    exact ⟨hstep, hstep⟩
  case failure => exact step_of_decodeError rfl inBounds (first.trans (by rw [strict]; rfl))

/-- Settles O22, the case of the default parameters. -/
theorem resetMeetsTheMachineInvariant : Obligations.ResetMeetsTheMachineInvariant :=
  inv_resetWith Config.defaults

end Sys2Proof.Machine
end

section
/-!
PROOF. Where pc goes (spec/40_sequencer_control.md R402, R404): what each kind of end does to it, the key that a skip
reads (R460, R461, D12), and the statements about pc and about a store over the next instruction
(spec/20_memory.md R223).
-/
namespace Sys2Proof.Machine

section
variable {s t u : State} {x : RegIdx}

/-- The end of an instruction whose writes leave pc alone. -/
theorem State.finish_next_pc {d : Disposition} (h : u.finish d = .next t) (kept : u.pc = s.pc) :
    t.pc = nextPc s.pc d := by
  cases h
  rw [State.setPc_pc, kept]

theorem State.withSpan_finish_pc {len : Nat} (h : s.withSpan len (u.finish .next) = .next t) (kept : u.pc = s.pc) :
    t.pc = s.pc + 2 :=
  State.finish_next_pc (State.withSpan_next h).2 kept

theorem exec_ret_pc (h : exec .ret s = .next t) {k : Fin 16} (hk : k.val + 1 = s.sp.val) : t.pc = s.stack[k] := by
  cases (exec_ret_entry (by omega)).symm.trans h
  exact s.top_eq k hk

theorem exec_callAddr_pc {nnn : Word} (h : exec (.callAddr nnn) s = .next t) : t.pc = nnn := by
  obtain ⟨_, e⟩ | ⟨_, e⟩ := s.pushJump_cases (s.pc + 2) nnn <;> cases e.symm.trans h
  rfl

theorem exec_ldVxK_pc (h : exec (.ldVxK x) s = .next t) :
    t.pc = if s.lastPressed = none then s.pc else s.pc + 2 := by
  cases press : s.lastPressed with
  | none => cases (exec_ldVxK_of_noPress x press).symm.trans h; rfl
  | some k => cases (exec_ldVxK_of_press x press).symm.trans h; rfl

theorem exec_addIVx_pc (h : exec (.addIVx x) s = .next t) : t.pc = s.pc + 2 := by
  refine State.finish_next_pc h ?_
  obtain ⟨_, e⟩ | ⟨_, e⟩ := (s.setI (s.i + zext16 (s.reg x))).setAddIFlag_cases s.i (s.reg x) <;> rw [e] <;> rfl

theorem exec_ldFVx_pc (h : exec (.ldFVx x) s = .next t) : t.pc = s.pc + 2 := by
  obtain ⟨_, _, e⟩ | ⟨_, _, e⟩ | ⟨_, _, e⟩ := execLdFVx_cases x s <;> cases e.symm.trans h <;> rfl

/-- A key that is down, named by a byte. -/
abbrev State.KeyDown (s : State) (b : Byte) : Prop := ∃ k : Fin 16, k.val = b.toNat ∧ s.keys[k] = true

theorem State.keyDown_iff {b : Byte} {k : Fin 16} (hk : b.toNat = k.val) : s.KeyDown b ↔ s.keys[k] = true := by
  constructor
  · rintro ⟨j, hj, down⟩
    cases Fin.ext (hj.trans hk)
    exact down
  · exact fun down => ⟨k, hk.symm, down⟩

theorem State.not_keyDown_of_above {b : Byte} (above : 15 < b.toNat) : ¬ s.KeyDown b := by
  rintro ⟨k, hk, _⟩
  omega

/-- A skip on a key goes by whether the byte names a key that is down (D12: above 15 it names none). -/
theorem State.skipOnKey_pc {b : Byte} {wanted : Bool} (h : s.skipOnKey b wanted = .next t) :
    t.pc = if s.KeyDown b then nextPc s.pc (.skip wanted) else nextPc s.pc (.skip !wanted) := by
  obtain ⟨k, hk, e⟩ | ⟨_, _, e⟩ | ⟨above, _, e⟩ := s.skipOnKey_cases b wanted <;> cases e.symm.trans h
  · rw [State.setPc_pc]
    cases down : s.keys[k] with
    | true =>
      rw [if_pos ((State.keyDown_iff hk).2 down)]
      cases wanted <;> rfl
    | false =>
      have up : ¬ s.KeyDown b := by rw [State.keyDown_iff hk, down]; decide
      rw [if_neg up]
      cases wanted <;> rfl
  · rw [State.setPc_pc, if_neg (State.not_keyDown_of_above above)]
    cases wanted <;> rfl

end

/-! ## The obligations -/

/-- Settles O28, by the instruction: all but the jumps, the skips, RET and the key wait end in the disposition Next. -/
theorem pcFollowsTheDispositionTable : Obligations.PcFollowsTheDispositionTable := by
  intro i s t h
  cases i with
  | ret => exact fun k => exec_ret_pc h
  | callAddr nnn => exact exec_callAddr_pc h
  | seVxByte x kk | sneVxByte x kk => cases h; simp [nextPc]
  | seVxVy x y | sneVxVy x y => cases h; simp [nextPc]
  | skpVx x => exact State.skipOnKey_pc h
  | sknpVx x => exact State.skipOnKey_pc h
  | ldVxK x => exact exec_ldVxK_pc h
  | addIVx x => exact exec_addIVx_pc h
  | ldFVx x => exact exec_ldFVx_pc h
  | drwVxVyN x y n => exact State.withSpan_finish_pc h rfl
  | ldBVx x => exact State.withSpan_finish_pc h (State.writeBytes_pc _ _)
  | ldMemVx x => exact State.withSpan_finish_pc h (State.storeRegs_pc _ _)
  | ldVxMem x => exact State.withSpan_finish_pc h (State.loadRegs_pc _ _)
  | _ => cases h; rfl

/-- Settles O36: the store moves pc to the bytes of Va and Vb, and keeps all but memory and pc. -/
theorem storeIsSeenByTheNextFetch : Obligations.StoreIsSeenByTheNextFetch := by
  intro x a b s j hrun inBounds hbx hab hpc hdecode
  obtain ⟨t, store, frame, stored, _⟩ := registersAreStored x s inBounds
  have hx : b.val ≤ x.val := hbx
  have high : t.pc.toNat = s.i.toNat + a.val := by
    rw [frame]
    bv_omega
  have hword : t.readWord t.pc.toNat = wordOfBytes (s.reg a) (s.reg b) := by
    rw [State.readWord, high, stored a (Fin.le_def.2 (by omega)), Nat.add_assoc, ← hab, stored b hbx]
  refine ⟨t, store, step_of_decode ?run (by omega) ?decodes⟩
  case run => rw [frame]; exact hrun
  case decodes => rw [hword, frame]; exact hdecode

end Sys2Proof.Machine
end

section
/-!
PROOF. The ALU with VF as the target (spec/42_alu.md R530), from the statements about any target, and RND (R560).
-/
namespace Sys2Proof.Machine

/-- The result read as a number. -/
theorem WritesRegAndFlag.toNat_reg {i : Instr} {s : State} {x : RegIdx} {n : Nat} {flag : Byte}
    (h : WritesRegAndFlag i s x (BitVec.ofNat 8 n) flag) (hn : n < 256) :
    ∃ t, exec i s = .next t ∧ (t.reg x).toNat = n := by
  obtain ⟨t, run, _, target, _⟩ := h
  exact ⟨t, run, by rw [target, BitVec.toNat_ofNat, Nat.mod_eq_of_lt hn]⟩

/-- Settles O44, from what each of the five writes to its target, whichever register that is (O41 to O43). -/
theorem resultWinsWhenTheTargetIsTheFlag : Obligations.ResultWinsWhenTheTargetIsTheFlag := by
  intro y s
  have ha := (s.reg 15).isLt
  obtain ⟨sub, subn⟩ := subtractionsSetNoBorrow 15 y s
  obtain ⟨shr, shl⟩ := shiftsSetTheBitShiftedOut 15 s
  obtain ⟨t1, run1, add⟩ := (addSetsCarry 15 y s).toNat_reg (Nat.mod_lt _ (by decide))
  obtain ⟨t2, run2, sub⟩ := sub.toNat_reg (Nat.mod_lt _ (by decide))
  obtain ⟨t3, run3, shr⟩ := shr.toNat_reg (by omega)
  obtain ⟨t4, run4, subn⟩ := subn.toNat_reg (Nat.mod_lt _ (by decide))
  obtain ⟨t5, run5, shl⟩ := shl.toNat_reg (Nat.mod_lt _ (by decide))
  exact ⟨t1, t2, t3, t4, t5, run1, add, run2, sub, run3, shr, run4, subn, run5, shl⟩

/-- Settles O45: the masks 0 and 0xFF are the two ends of AND. -/
theorem randomByteIsMasked : Obligations.RandomByteIsMasked := by
  intro x kk s
  have target := s.countDraw.reg_setReg_same x (s.randomByte &&& kk)
  refine ⟨_, rfl, rfl, target, ?_, ?_, fun r => s.countDraw.reg_setReg_ne _⟩
  · rintro rfl
    exact target.trans BitVec.and_zero
  · rintro rfl
    exact target.trans BitVec.and_allOnes

end Sys2Proof.Machine
end

section
/-!
PROOF. R704's second sentence (spec/44_display.md, log 11) fails on a grid where the first call of Draw only erases.
-/
namespace Sys2Proof.Machine

/-- Refutes O57: the first call of a one-pixel sprite erases the grid's one set pixel, so the second meets none. -/
theorem not_secondDrawCollidesOnAnyGrid : ¬ Obligations.SecondDrawCollidesOnAnyGrid := by
  intro h
  have erased : (draw (draw (Framebuffer.blank.setPixel 0 0 true) [0x80] 0 0).fb [0x80] 0 0).collided = false := by
    decide
  have claimed := (h (Framebuffer.blank.setPixel 0 0 true) [0x80] 0 0 (by decide)).2 ⟨0x80, by decide, by decide⟩
  rw [erased] at claimed
  cases claimed

end Sys2Proof.Machine
end
